-- ==== Sys2Proof/Word.lean ====
section
/-! DEFINITION. The words of RXF: a byte, the cursor, a record, what the input pins show at one clock edge, and the
decode word of an input event. -/

namespace Sys2Proof

/-- A byte, "8-bit unsigned value, 0–255" (R8, R9): bit 7 is the most significant. -/
abbrev Byte := BitVec 8

/-- The cursor `st`, an enumeration of exactly four members (R21). The number in a name counts the wire bytes of the
frame consumed so far, the preamble included (R10, R22). -/
inductive Cursor where
  | await
  | have1
  | have2
  | have3
deriving DecidableEq, Repr

/-- A record, the decoded triple of R61: three wire bytes in order of arrival (R43). -/
structure Record where
  code : Byte
  arg1 : Byte
  arg2 : Byte
deriving DecidableEq, Repr

/-- What the input pins of R41 show at one rising edge of the clock. -/
structure PortSample where
  rst : Bool
  inValid : Bool
  inData : Byte
deriving DecidableEq, Repr

/-- What selects an operation: `rst`, which is looked at first and is no part of `W`, and the 11-bit decode word `W`
of R62 (log 7). -/
structure EventWord where
  rst : Bool
  w : BitVec 11
deriving DecidableEq, Repr

end Sys2Proof
end

