-- ==== Sys2Proof/Config.lean ====
section
/-! DEFINITION. The parameters of RXF (R8) and its free values. -/

namespace Sys2Proof.Config

/-- `PREAMBLE`, decimal 165: a parameter of the design, constant at run time (R8, D12). UNVERIFIED against the device,
log 16. -/
def preamble : Byte := 165#8

/-- `FRAME_LEN`, the bytes of a frame on the wire (R8, R60). -/
def frameLen : Nat := 4

/-- What `x[1]` holds after reset: the first byte of the open parameter `X_RESET` (R8, R30, D5). DESIGN CHOICE, log 2. -/
opaque xReset1 : Byte

/-- What `x[2]` holds after reset: the second byte of the open parameter `X_RESET` (R8, R30, D5). DESIGN CHOICE, log 2. -/
opaque xReset2 : Byte

/-- The free value that a RESET operation leaves in a pending register: any 8-bit value, which may but need not be the
old one (R160). Its arguments are the number of the draw and what the register held. DESIGN CHOICE, log 3. -/
opaque resetDraw : Nat → Byte → Byte

end Sys2Proof.Config
end

