-- ==== Sys2Proof/Machine/State.lean ====
section
/-! DEFINITION. The state of the machine: the three registers of RXF (R20), and the model's own fields for its input
pins, its two streams and its free values (logs 1, 3, 5). RXF has no memory (R28, R51). -/

namespace Sys2Proof.Machine

/-- The machine. `st`, `x1` and `x2` are the whole state of RXF (R20); the other fields are the model's own and no
operation reads one of them but the list of coming edges, from which the step takes its event (R29). -/
structure State where
  /-- The cursor `st` (R21). -/
  st : Cursor
  /-- `x[1]`, the source's `pending1` (R23). -/
  x1 : Byte
  /-- `x[2]`, the source's `pending2` (R24). -/
  x2 : Byte
  /-- What the input pins show at the coming clock edges, the next edge first (R41, log 1). -/
  edges : List PortSample
  /-- The bytes of `IN` consumed so far, oldest first (R40, log 5). -/
  taken : List Byte
  /-- The records of `OUT`, oldest first (R42, log 5). -/
  out : List Record
  /-- How many free values RESET has left in the pending registers (R160, log 3). -/
  draws : Nat
deriving DecidableEq, Repr

/-- The machine right after reset (R30, R161): AWAIT, any values in the pending registers (log 2), nothing on the pins
yet, both streams empty. -/
def State.reset : State where
  st := .await
  x1 := Config.xReset1
  x2 := Config.xReset2
  edges := []
  taken := []
  out := []
  draws := 0

/-- The reasons the machine faults: none. "The complete list of synchronous exception causes is empty" (R130, log 9). -/
inductive Fault
deriving DecidableEq, Repr

/-- The reasons the machine refuses an operation. -/
inductive Refusal where
  /-- Answered by an arm of exec for an operation that has no meaning yet; no arm answers it. Safe: it only stops. -/
  | notModelled (mnemonic : String)
deriving DecidableEq, Repr

end Sys2Proof.Machine
end

