-- ==== Sys2Proof/Machine/Ops.lean ====
section
/-! DEFINITION. The named operations over the registers and the streams. RXF has no memory operation (R51), and no
operation takes an exception or returns from one, since nothing is ever raised (R130, R136, R137). -/

namespace Sys2Proof.Machine

/-- `pc <- T`: the cursor takes the value T (R11). -/
def State.setCursor (s : State) (c : Cursor) : State := { s with st := c }

/-- `x[1] <- v` (R11), the byte stored unchanged (R57). -/
def State.setX1 (s : State) (v : Byte) : State := { s with x1 := v }

/-- `x[2] <- v` (R11), the byte stored unchanged (R57). -/
def State.setX2 (s : State) (v : Byte) : State := { s with x2 := v }

/-- `MemRead(IN, 1)`: a byte is consumed, and it is gone after the read (R11, R40). -/
def State.takeByte (s : State) (b : Byte) : State := { s with taken := s.taken ++ [b] }

/-- `Emit(c, a1, a2) = MemWrite(OUT, 3, c ‖ a1 ‖ a2)`: one record is appended to `OUT` (R42). -/
def State.emit (s : State) (r : Record) : State := { s with out := s.out ++ [r] }

/-- The record that EMIT assembles from the pending registers and the byte of its own step (R61). -/
def State.recordWith (s : State) (b : Byte) : Record := ⟨s.x1, s.x2, b⟩

/-- RESET leaves an unspecified byte in each pending register: two free values (R160, log 3). -/
def State.disturb (s : State) : State :=
  { s with
    x1 := Config.resetDraw s.draws s.x1
    x2 := Config.resetDraw (s.draws + 1) s.x2
    draws := s.draws + 2 }

/-- One clock edge has passed: the edge's pins are gone. -/
def State.advance (s : State) : State := { s with edges := s.edges.tail }

end Sys2Proof.Machine
end

