-- ==== Sys2Proof/Machine/Capture.lean ====
section
/-! DEFINITION. The capture operations CAP1 and CAP2, the accumulator (41_capture.md). -/

namespace Sys2Proof.Machine

/-- CAP1 (R90): the byte goes to `x[1]` and the cursor to HAVE2. -/
def execCap1 (b : Byte) (s : State) : Host.Outcome State Fault Refusal :=
  .next (((s.takeByte b).setX1 b).setCursor .have2)

/-- CAP2 (R91): the byte goes to `x[2]` and the cursor to HAVE3. -/
def execCap2 (b : Byte) (s : State) : Host.Outcome State Fault Refusal :=
  .next (((s.takeByte b).setX2 b).setCursor .have3)

end Sys2Proof.Machine
end

