-- ==== Sys2Proof/Machine/Control.lean ====
section
/-! DEFINITION. The operations that consume no byte: IDLE (43_stream.md) and RESET (70_reset_and_hazards.md). -/

namespace Sys2Proof.Machine

/-- IDLE (R110): nothing is consumed, written or emitted. -/
def execIdle (s : State) : Host.Outcome State Fault Refusal :=
  .next s

/-- RESET (R160): the cursor goes to AWAIT, the pending registers hold unspecified bytes, nothing is consumed and
nothing is emitted. -/
def execReset (s : State) : Host.Outcome State Fault Refusal :=
  .next (s.disturb.setCursor .await)

end Sys2Proof.Machine
end

