-- ==== Sys2Proof/Machine/Emit.lean ====
section
/-! DEFINITION. The completion operation EMIT (42_emit.md). -/

namespace Sys2Proof.Machine

/-- EMIT (R100): the record of the pending bytes and this step's byte is appended to `OUT`, the byte is stored nowhere,
the pending registers are held, and the cursor returns to AWAIT. -/
def execEmit (b : Byte) (s : State) : Host.Outcome State Fault Refusal :=
  .next (((s.takeByte b).emit (s.recordWith b)).setCursor .await)

end Sys2Proof.Machine
end

