-- ==== Sys2Proof/Machine/Hunt.lean ====
section
/-! DEFINITION. The hunt operations SKIP and SYNC, the preamble detector (40_hunt.md). -/

namespace Sys2Proof.Machine

/-- SKIP (R80): the byte is consumed and discarded, and no register changes. -/
def execSkip (b : Byte) (s : State) : Host.Outcome State Fault Refusal :=
  .next (s.takeByte b)

/-- SYNC (R81): the preamble is consumed and not stored, and the cursor moves to HAVE1. -/
def execSync (s : State) : Host.Outcome State Fault Refusal :=
  .next ((s.takeByte Config.preamble).setCursor .have1)

end Sys2Proof.Machine
end

