-- ==== Sys2Proof/Syntax.lean ====
section
/-! DEFINITION. The operations of RXF, one constructor for each row of the opcode table (R63, R69, R71). -/

namespace Sys2Proof

/-- What RXF does at one clock edge. The byte of a byte step is the operand of the operations that may be selected by
more than one byte; SYNC is selected by the preamble alone, and IDLE and RESET have no operands (R110, R160, log 8). -/
inductive Instr where
  /-- RESET (R160). -/
  | reset
  /-- IDLE (R110). -/
  | idle
  /-- SYNC, the preamble arrives in AWAIT (R81). -/
  | sync
  /-- SKIP, any other byte arrives in AWAIT (R80). -/
  | skip (b : Byte)
  /-- CAP1, a byte arrives in HAVE1 (R90). -/
  | cap1 (b : Byte)
  /-- CAP2, a byte arrives in HAVE2 (R91). -/
  | cap2 (b : Byte)
  /-- EMIT, a byte arrives in HAVE3 (R100). -/
  | emit (b : Byte)
deriving DecidableEq, Repr

end Sys2Proof
end

