-- ==== Sys2Proof/Machine/Dispatch.lean ====
section
/-! DEFINITION. The meaning of every operation (R63), one arm for each. -/

namespace Sys2Proof.Machine

def exec (i : Instr) (s : State) : Host.Outcome State Fault Refusal :=
  match i with
  | .reset => Sys2Proof.Machine.execReset s
  | .idle => Sys2Proof.Machine.execIdle s
  | .sync => Sys2Proof.Machine.execSync s
  | .skip b => Sys2Proof.Machine.execSkip b s
  | .cap1 b => Sys2Proof.Machine.execCap1 b s
  | .cap2 b => Sys2Proof.Machine.execCap2 b s
  | .emit b => Sys2Proof.Machine.execEmit b s

end Sys2Proof.Machine
end

