-- ==== Sys2Proof/WellFormed.lean ====
section
/-! DEFINITION. Which operations an input event can select. -/

namespace Sys2Proof

/-- The check for a given preamble: SKIP is the complement of SYNC inside AWAIT, so its byte is not the preamble
(R63, R80). Every other operation is well formed with every byte (R65). -/
def Instr.wfAt (p : Byte) : Instr → Bool
  | .skip b => b != p
  | .reset | .idle | .sync | .cap1 _ | .cap2 _ | .emit _ => true

/-- The check for this hardware's preamble. -/
def Instr.wf (i : Instr) : Bool := i.wfAt Config.preamble

end Sys2Proof
end

