-- ==== Sys2Proof/Decode.lean ====
section
/-! DEFINITION. The decode word and its fields (R62), the decoder (R63, R64), the encoder, and the opcode table as the
spec writes it (R63, R71). The preamble is an argument (R8, D12); `decode` and `encode` take this hardware's. -/

namespace Sys2Proof

/-- The encoding of the cursor in the decode word (R21, D6). -/
def Cursor.toBits : Cursor → BitVec 2
  | .await => 0b00#2
  | .have1 => 0b01#2
  | .have2 => 0b10#2
  | .have3 => 0b11#2

/-- The cursor that two bits stand for: every pattern is a legal state (R21). -/
def Cursor.ofBits (v : BitVec 2) : Cursor :=
  if v = 0b00#2 then .await else if v = 0b01#2 then .have1 else if v = 0b10#2 then .have2 else .have3

/-- `W = in_valid ‖ st[1:0] ‖ in_data[7:0]` (R62). -/
def decodeWord (inValid : Bool) (st : Cursor) (inData : Byte) : BitVec 11 :=
  BitVec.ofBool inValid ++ (st.toBits ++ inData)

/-- `W[10]`, `in_valid` (R62). -/
def wValid (w : BitVec 11) : Bool := w.getLsbD 10

/-- `W[9:8]`, the cursor (R62). -/
def wCursor (w : BitVec 11) : Cursor := Cursor.ofBits (w.extractLsb' 8 2)

/-- `W[7:0]`, the byte (R62). -/
def wByte (w : BitVec 11) : Byte := w.extractLsb' 0 8

/-- The preamble comparison: a full 8-bit equality, no bit masked out (R82). -/
def isPreamble (p b : Byte) : Bool := b == p

/-- A byte step's operation, by the cursor and, in AWAIT alone, by the byte (R63, R68). -/
def decodeByteStep (p : Byte) (st : Cursor) (b : Byte) : Instr :=
  match st with
  | .await => if isPreamble p b then .sync else .skip b
  | .have1 => .cap1 b
  | .have2 => .cap2 b
  | .have3 => .emit b

/-- The decoder for a given preamble: RESET if `rst`, else IDLE if `in_valid` is 0, else the byte step (R64). It is
total: no value of the word is illegal (R65). -/
def decodeAt (p : Byte) (e : EventWord) : Instr :=
  if e.rst then .reset
  else if wValid e.w then decodeByteStep p (wCursor e.w) (wByte e.w)
  else .idle

/-- The decoder of this hardware. -/
def decode (e : EventWord) : Instr := decodeAt Config.preamble e

/-- The encoder for a given preamble: the event that selects a well-formed operation, written from the encodings of the
table. `dc` fills the bits the table leaves free and no operand uses: all of `W` for RESET, the cursor and the byte for
IDLE (log 8). -/
def encodeAt (p : Byte) (dc : BitVec 11) : Instr → EventWord
  | .reset => ⟨true, dc⟩
  | .idle => ⟨false, 0x3FF#11 &&& dc⟩
  | .sync => ⟨false, decodeWord true .await p⟩
  | .skip b => ⟨false, decodeWord true .await b⟩
  | .cap1 b => ⟨false, decodeWord true .have1 b⟩
  | .cap2 b => ⟨false, decodeWord true .have2 b⟩
  | .emit b => ⟨false, decodeWord true .have3 b⟩

/-- The encoder of this hardware, with zeros in the bits that no operand uses. -/
def encode (i : Instr) : EventWord := encodeAt Config.preamble 0#11 i

/-- The seven operation names of R69. -/
inductive Op where
  | RESET
  | IDLE
  | SYNC
  | SKIP
  | CAP1
  | CAP2
  | EMIT
deriving DecidableEq, Repr

/-- The name of an operation. -/
def Instr.op : Instr → Op
  | .reset => .RESET
  | .idle => .IDLE
  | .sync => .SYNC
  | .skip _ => .SKIP
  | .cap1 _ => .CAP1
  | .cap2 _ => .CAP2
  | .emit _ => .EMIT

/-- The byte an operation carries, if it carries one. -/
def Instr.operand : Instr → Option Byte
  | .reset | .idle | .sync => none
  | .skip b | .cap1 b | .cap2 b | .emit b => some b

/-- One row of the opcode table over `W` (R71): `match`, `mask` and `priority`. -/
structure OpRow where
  op : Op
  pattern : BitVec 11
  mask : BitVec 11
  priority : Nat
deriving DecidableEq, Repr

/-- A row is selected when `(W AND mask) = match` (R62). -/
def OpRow.hits (r : OpRow) (w : BitVec 11) : Bool := (w &&& r.mask) == r.pattern

/-- The six rows of R63 that lie in `W`, in ascending priority, numbers as the table prints them. -/
def opcodeRows : List OpRow :=
  [ ⟨.IDLE, 0x000#11, 0x400#11, 1⟩,
    ⟨.SYNC, 0x4A5#11, 0x7FF#11, 2⟩,
    ⟨.SKIP, 0x400#11, 0x700#11, 3⟩,
    ⟨.CAP1, 0x500#11, 0x700#11, 4⟩,
    ⟨.CAP2, 0x600#11, 0x700#11, 5⟩,
    ⟨.EMIT, 0x700#11, 0x700#11, 6⟩ ]

/-- "A decoder written from the table alone" (R71): RESET if `rst`, else the first row in priority order that is
selected. -/
def tableOp (e : EventWord) : Option Op :=
  if e.rst then some .RESET else (opcodeRows.find? fun r => r.hits e.w).map OpRow.op

/-- Why a table word stands for no event. -/
inductive DecodeError where
  /-- The word has a bit above bit 10, and `W` has none (R62, log 7). -/
  | bitsAboveW
deriving DecidableEq, Repr

/-- The operation that a word of the opcode table stands for. A row of no bits is RESET, the only row the table gives
none (R71, log 7). -/
def decodeTableBits (nbits w : Nat) : Except DecodeError Instr :=
  if nbits = 0 then .ok .reset
  else if w < 2048 then .ok (decode ⟨false, BitVec.ofNat 11 w⟩)
  else .error .bitsAboveW

/-- The operation the decoder reads from a word of the opcode table, none where it rejects the word. -/
def decodeTableWord (nbits w : Nat) : Option Instr :=
  match decodeTableBits nbits w with
  | .ok i => some i
  | .error _ => none

/-- The pins that a word of the opcode table stands for (R62, log 14). -/
def sampleOfTableWord (nbits w : Nat) : PortSample :=
  if nbits = 0 then ⟨true, false, 0#8⟩
  else ⟨false, wValid (BitVec.ofNat 11 w), wByte (BitVec.ofNat 11 w)⟩

/-- The cursor that a word of the opcode table holds; a row of no bits leaves it as it is (R62, log 14). -/
def cursorOfTableWord (nbits w : Nat) (st : Cursor) : Cursor :=
  if nbits = 0 then st else wCursor (BitVec.ofNat 11 w)

end Sys2Proof
end

