-- ==== Sys2Proof/Machine/Operands.lean ====
section
/-! DEFINITION. The event of a clock edge and its operand. There is one addressing mode, "next item of the stream", and
no effective address (R57). -/

namespace Sys2Proof

/-- Nothing on the pins: `rst` and `in_valid` are 0 (R110). -/
def PortSample.quiet : PortSample := ⟨false, false, 0#8⟩

/-- An edge at which a byte of the stream is presented (R41). -/
def PortSample.ofByte (b : Byte) : PortSample := ⟨false, true, b⟩

/-- The byte that an edge's step consumes: one in a byte step, none in an IDLE or RESET step (R49, R135). -/
def PortSample.accepted (p : PortSample) : Option Byte :=
  if p.rst = false ∧ p.inValid = true then some p.inData else none

/-- The bytes of `IN` that a list of edges presents, those that reset swallows left out (R40, R135). -/
def acceptedBytes (ps : List PortSample) : List Byte := ps.filterMap PortSample.accepted

namespace Machine

/-- What the pins show at the next clock edge; nothing, where the list of edges gives none (log 1). -/
def nextEdge (s : State) : PortSample := s.edges.headD PortSample.quiet

/-- The word that selects the operation of an edge, from the cursor and the pins (R62, R64). -/
def eventWord (st : Cursor) (p : PortSample) : EventWord := ⟨p.rst, decodeWord p.inValid st p.inData⟩

/-- The operation that executes at an edge (R64). -/
def select (st : Cursor) (p : PortSample) : Instr := decode (eventWord st p)

/-- The operation of the next clock edge. -/
def nextInstr (s : State) : Instr := select s.st (nextEdge s)

end Machine

end Sys2Proof
end

