-- ==== Sys2Proof/Machine/Step.lean ====
section
/-! DEFINITION. One step: one rising edge of the clock (R12, R64). -/

namespace Sys2Proof.Machine

/-- One clock edge: the operation that the cursor and the edge's pins select is executed (R64). -/
def step (s : State) : Host.Outcome State Fault Refusal :=
  exec (nextInstr s) s.advance

/-- `s` with an event of the opcode table placed at the next clock edge. The decode word holds the cursor, so the cursor
is set with the pins (R62, log 14). -/
def State.withFetchWord (s : State) (nbits w : Nat) : State :=
  { s with
    st := cursorOfTableWord nbits w s.st
    edges := sampleOfTableWord nbits w :: s.edges.tail }

end Sys2Proof.Machine
end

