-- ==== Sys2Proof/Machine/Flags.lean ====
section
/-! DEFINITION. RXF has no flags and no condition codes (R25). Its only status signal is the data strobe `out_valid`
(R134), a combinational function, as the record beside it is, of the registers and the pins of the same cycle
(R41, R101). -/

namespace Sys2Proof

/-- A record as the 24-bit item `code ‖ arg1 ‖ arg2`, `code` most significant (R42, R61). -/
def Record.bits (r : Record) : BitVec 24 := r.code ++ (r.arg1 ++ r.arg2)

namespace Machine

/-- The record on the output pins in a cycle: `(x[1], x[2], in_data)` in an EMIT cycle, none in every other (R101). The
three data pins have no value while there is none (D9, log 11). -/
def outRecord (s : State) (p : PortSample) : Option Record :=
  if p.rst = false ∧ p.inValid = true ∧ s.st = .have3 then some (s.recordWith p.inData) else none

/-- `out_valid` in a cycle (R41, R101). -/
def outValid (s : State) (p : PortSample) : Bool := (outRecord s p).isSome

end Machine

end Sys2Proof
end

