-- ==== Sys2Proof/Machine/Stream.lean ====
section
/-! DEFINITION. The functions that the spec defines over the operations: `Step` and `Clock` (R111), `Feed` (R112), the
companion encoder `EncodeFrame` (R70), and runs of the machine (R122). They are written from those rules' own displays
and not from the operations, so that a claim can hold the machine against them. The preamble is an argument (R8, D12). -/

namespace Sys2Proof.Machine

/-- The triple `s = (st, x1, x2)` of R20 and R111. -/
structure Parser where
  st : Cursor
  x1 : Byte
  x2 : Byte
deriving DecidableEq, Repr

/-- The three registers of the machine. -/
def State.parser (s : State) : Parser := ⟨s.st, s.x1, s.x2⟩

/-- `Step(s, b)`, the display of R111. -/
def stepByte (p : Byte) (q : Parser) (b : Byte) : Parser × Option Record :=
  match q with
  | ⟨.await, x1, x2⟩ => if b = p then (⟨.have1, x1, x2⟩, none) else (⟨.await, x1, x2⟩, none)
  | ⟨.have1, _, x2⟩ => (⟨.have2, b, x2⟩, none)
  | ⟨.have2, x1, _⟩ => (⟨.have3, x1, b⟩, none)
  | ⟨.have3, x1, x2⟩ => (⟨.await, x1, x2⟩, some ⟨x1, x2, b⟩)

/-- `Clock(s, rst, in_valid, in_data)` of R111, where `d1` and `d2` are what RESET leaves unspecified (R160). -/
def clock (p : Byte) (d1 d2 : Byte) (q : Parser) (e : PortSample) : Parser × Option Record :=
  if e.rst then (⟨.await, d1, d2⟩, none)
  else if e.inValid then stepByte p q e.inData
  else (q, none)

/-- `Feed(s, bytes)`, the left fold of `Step` (R112): the state after the last byte and the records in order. -/
def feed (p : Byte) (q : Parser) : List Byte → Parser × List Record
  | [] => (q, [])
  | b :: rest =>
    let (q1, o) := stepByte p q b
    let (q2, rs) := feed p q1 rest
    (q2, o.toList ++ rs)

/-- `EncodeFrame(c, a1, a2)` of R70, with the source's defaults. No part of the hardware. -/
def encodeFrame (p c : Byte) (a1 a2 : Byte := 0#8) : List Byte := [p, c, a1, a2]

/-- The four bytes of a record's frame. -/
def frameOf (p : Byte) (r : Record) : List Byte := encodeFrame p r.code r.arg1 r.arg2

/-- The cursor's index `j` of R116. -/
def cursorIndex : Cursor → Nat
  | .await => 0
  | .have1 => 1
  | .have2 => 2
  | .have3 => 3

/-- `s` with the pins of its coming edges set: what the environment may do (R7). -/
def State.withEdges (s : State) (es : List PortSample) : State := { s with edges := es }

/-- `k` clock edges. -/
def run : Nat → State → Host.Outcome State Fault Refusal
  | 0, s => .next s
  | k + 1, s =>
    match step s with
    | .next t => run k t
    | .fault f => .fault f
    | .refused r => .refused r

/-- A run of R122: a start state and a finite sequence of events, which ends when the sequence is exhausted. -/
def runEdges (s : State) (es : List PortSample) : Host.Outcome State Fault Refusal :=
  run es.length (s.withEdges es)

end Sys2Proof.Machine
end

