-- ==== Sys2Proof/Safety.lean ====
section
/-! DEFINITION. What a claim may say of a run: the invariants of RXF, the relation between two runs that differ in
nothing observable, and the alignment of RXF with the sender's framing (R44). -/

namespace Sys2Proof.Safety

open Sys2Proof.Machine

/-- The bytes of the frame in progress, as R22 gives them for each cursor: the preamble and the captured fields. -/
def pending (s : State) : List Byte :=
  match s.st with
  | .await => []
  | .have1 => [Config.preamble]
  | .have2 => [Config.preamble, s.x1]
  | .have3 => [Config.preamble, s.x1, s.x2]

/-- R31: the bytes that the pending registers hold for the frame in progress are the bytes consumed last. -/
def PendingValid (s : State) : Prop := ∃ before, s.taken = before ++ pending s

/-- What a stretch of consumed bytes was to RXF: a byte skipped in the hunt, a frame that became a record, or a partial
frame that RESET discarded (R83, R103, R163). -/
inductive Piece where
  | skipped (b : Byte)
  | framed (r : Record)
  | dropped (fields : List Byte)
deriving DecidableEq, Repr

/-- The bytes of a stretch. -/
def Piece.bytes : Piece → List Byte
  | .skipped b => [b]
  | .framed r => frameOf Config.preamble r
  | .dropped fields => Config.preamble :: fields

/-- The record of a stretch. -/
def Piece.record : Piece → Option Record
  | .framed r => some r
  | .skipped _ | .dropped _ => none

/-- A skipped byte is no preamble (R80), and a partial frame has at most two fields (R22). -/
def Piece.ok : Piece → Prop
  | .skipped b => b ≠ Config.preamble
  | .framed _ => True
  | .dropped fields => fields.length ≤ 2

/-- Whether a stretch is a partial frame that RESET discarded. -/
def Piece.isDropped : Piece → Bool
  | .dropped _ => true
  | .skipped _ | .framed _ => false

/-- `pieces` is a reading of the two streams: the consumed bytes are the stretches in order and then the frame in
progress, and `OUT` is the records of the stretches in order (R42, R45, R52, R103). -/
def OutMatchesInAs (pieces : List Piece) (s : State) : Prop :=
  (∀ c ∈ pieces, c.ok) ∧
    s.taken = pieces.flatMap Piece.bytes ++ pending s ∧ s.out = pieces.filterMap Piece.record

/-- The streams have such a reading: the records are whole frames of `IN`, disjoint and in order. Where a partial frame
may stand in the reading is not said here; the statement about the step says that RESET alone adds one. -/
def OutMatchesIn (s : State) : Prop := ∃ pieces : List Piece, OutMatchesInAs pieces s

/-- R116 as a bound on the two streams: four bytes of `IN` for each record, and those of the frame in progress. -/
def RateBounded (s : State) : Prop :=
  Config.frameLen * s.out.length + cursorIndex s.st ≤ s.taken.length

/-- Two states that differ at most in what no output can tell: the number of free values drawn, and a pending register
that holds no byte of the frame in progress (R31). -/
structure SameButUnwritten (s t : State) : Prop where
  st : s.st = t.st
  edges : s.edges = t.edges
  taken : s.taken = t.taken
  out : s.out = t.out
  x1 : s.st = .have2 ∨ s.st = .have3 → s.x1 = t.x1
  x2 : s.st = .have3 → s.x2 = t.x2

/-- The place of a byte in the sender's framing (R44, R60). R44 names a frame's four bytes and the bytes between frames.
DESIGN CHOICE, log 15: a byte inserted inside a frame (R47 b) is none of these, has no place of its own here, and is
written as `between`. -/
inductive Role where
  | preamble
  | field1
  | field2
  | field3
  | between
deriving DecidableEq, Repr

/-- What a sender puts on the line: whole frames, and other bytes between them (R44). -/
inductive Sent where
  | frame (r : Record)
  | between (b : Byte)
deriving DecidableEq, Repr

/-- The bytes of an item, each with its place in the framing. -/
def Sent.tagged : Sent → List (Role × Byte)
  | .frame r =>
    [(.preamble, Config.preamble), (.field1, r.code), (.field2, r.arg1), (.field3, r.arg2)]
  | .between b => [(.between, b)]

/-- The record a sender means by an item. -/
def Sent.record : Sent → Option Record
  | .frame r => some r
  | .between _ => none

/-- A between-frames byte that is no preamble: with one that is, alignment may be lost (R46, R47 c). -/
def Sent.quiet : Sent → Prop
  | .frame _ => True
  | .between b => b ≠ Config.preamble

/-- The sender's stream with its framing, which RXF does not see. -/
def tagged (items : List Sent) : List (Role × Byte) := items.flatMap Sent.tagged

/-- The sender's stream as the pins show it, one byte at each edge. -/
def edgesOf (stream : List (Role × Byte)) : List PortSample :=
  stream.map fun c => PortSample.ofByte c.2

/-- The three cases of R44. -/
inductive Alignment where
  | aligned
  | inStep
  | misaligned
deriving DecidableEq, Repr

/-- The place in the framing of the byte at position `k` of a sender's stream, if there is one. -/
def roleAt (stream : List (Role × Byte)) (k : Nat) : Option Role := (stream[k]?).map Prod.fst

/-- The place in the framing of the byte that RXF took as its frame's start, when it has consumed `k` bytes and its
cursor is `st`: in HAVEj the one consumed j bytes ago. None where that byte is not in the stream (DESIGN CHOICE,
log 15). -/
def startRole (stream : List (Role × Byte)) (k : Nat) (st : Cursor) : Option Role :=
  if cursorIndex st ≤ k then roleAt stream (k - cursorIndex st) else none

/-- RXF's relation to the sender when it has consumed `k` bytes of the sender's stream and its cursor is `st` (R44).
DESIGN CHOICE, log 15: R44 puts in none of its three cases an RXF that entered HAVEj on a sender's preamble and has
consumed fewer than j bytes of that frame, a byte having been inserted in it or several lost (R47 b); this function
answers `inStep` there. Nor has R44 a case for an RXF in AWAIT whose next byte is one inserted inside a frame; that byte
is written as `between`, and this function answers `aligned` there. -/
def alignment (stream : List (Role × Byte)) (k : Nat) (st : Cursor) : Alignment :=
  match st with
  | .await =>
    match roleAt stream k with
    | none | some .preamble | some .between => .aligned
    | some .field1 | some .field2 | some .field3 => .misaligned
  | .have1 | .have2 | .have3 =>
    if startRole stream k st = some .preamble then .inStep else .misaligned

end Sys2Proof.Safety
end

