-- ==== Sys2Proof/Certificates/Slice0/Obligations.lean ====
section
/-! DEFINITION. The statements for the provers. Each says in its docstring which rule of spec/ it formalises, and what
in it is the model's own choice. -/

open Sys2Proof Sys2Proof.Machine Sys2Proof.Safety

/-! ## The seven operations: selection, completion, effect, frame and output -/

/-- R160: with `rst` 1, whatever the other pins and the state are, RESET executes, the cursor goes to AWAIT, no byte is
consumed and nothing is emitted. Of the pending registers nothing is said, since they are unspecified. -/
def Obligations.ResetGoesToAwaitFromAnyState : Prop :=
  ∀ s : State,
    (∃ t, exec .reset s = .next t ∧ t.st = .await ∧ t.edges = s.edges ∧ t.taken = s.taken ∧ t.out = s.out) ∧
    ∀ (v : Bool) (d : Byte) (rest : List PortSample), s.edges = ⟨true, v, d⟩ :: rest →
      select s.st ⟨true, v, d⟩ = .reset ∧ outRecord s ⟨true, v, d⟩ = none ∧ outValid s ⟨true, v, d⟩ = false ∧
      ∃ t, step s = .next t ∧ t.st = .await ∧ t.edges = rest ∧ t.taken = s.taken ∧ t.out = s.out

/-- The model's form of R160's "unspecified" (log 3, a DESIGN CHOICE): RESET leaves two fresh free values, each a
constant with no body applied to a draw number and the register's old value, and changes nothing but the cursor, the
pending registers and the draw counter. -/
def Obligations.ResetDrawsFreePendingBytes : Prop :=
  ∀ s : State, exec .reset s = .next
    { s with
      st := .await
      x1 := Config.resetDraw s.draws s.x1
      x2 := Config.resetDraw (s.draws + 1) s.x2
      draws := s.draws + 2 }

/-- R110: an edge with `rst` 0 and `in_valid` 0 is an IDLE step, whatever `in_data` carries: nothing is consumed,
written or emitted, and any number of them is without effect. -/
def Obligations.IdleChangesNothing : Prop :=
  (∀ s : State, exec .idle s = .next s) ∧
  (∀ (s : State) (d : Byte) (rest : List PortSample), s.edges = ⟨false, false, d⟩ :: rest →
    select s.st ⟨false, false, d⟩ = .idle ∧ outRecord s ⟨false, false, d⟩ = none ∧
    outValid s ⟨false, false, d⟩ = false ∧ step s = .next { s with edges := rest }) ∧
  ∀ (s : State) (es : List PortSample), (∀ e ∈ es, e.rst = false ∧ e.inValid = false) →
    runEdges s es = .next { s with edges := [] }

/-- R80: in AWAIT a byte other than the preamble is consumed and discarded, no register changes and nothing is
emitted; its word is `1 00 bbbbbbbb`. -/
def Obligations.SkipDiscardsOtherByte : Prop :=
  ∀ (s : State) (b : Byte), s.st = .await → b ≠ Config.preamble →
    exec (.skip b) s = .next { s with taken := s.taken ++ [b] } ∧
    (eventWord .await (.ofByte b)).w &&& 0x700#11 = 0x400#11 ∧
    ∀ rest, s.edges = .ofByte b :: rest →
      select s.st (.ofByte b) = .skip b ∧ outRecord s (.ofByte b) = none ∧ outValid s (.ofByte b) = false ∧
      step s = .next { s with edges := rest, taken := s.taken ++ [b] }

/-- R81: in AWAIT the preamble is consumed, nothing is stored or emitted, and the cursor moves to HAVE1; its word is
`1 00 10100101`. -/
def Obligations.SyncOpensFrame : Prop :=
  ∀ s : State, s.st = .await →
    exec .sync s = .next { s with st := .have1, taken := s.taken ++ [0xA5#8] } ∧
    (eventWord .await (.ofByte 0xA5#8)).w = 0x4A5#11 ∧
    ∀ rest, s.edges = .ofByte 0xA5#8 :: rest →
      select s.st (.ofByte 0xA5#8) = .sync ∧ outRecord s (.ofByte 0xA5#8) = none ∧
      outValid s (.ofByte 0xA5#8) = false ∧
      step s = .next { s with st := .have1, edges := rest, taken := s.taken ++ [0xA5#8] }

/-- R90: in HAVE1 every byte, the preamble among them, is stored in `x[1]`, the cursor moves to HAVE2 and nothing is
emitted; its word is `1 01 bbbbbbbb`. -/
def Obligations.CaptureOneStoresFirstField : Prop :=
  ∀ (s : State) (b : Byte), s.st = .have1 →
    exec (.cap1 b) s = .next { s with st := .have2, x1 := b, taken := s.taken ++ [b] } ∧
    (eventWord .have1 (.ofByte b)).w &&& 0x700#11 = 0x500#11 ∧
    ∀ rest, s.edges = .ofByte b :: rest →
      select s.st (.ofByte b) = .cap1 b ∧ outRecord s (.ofByte b) = none ∧ outValid s (.ofByte b) = false ∧
      step s = .next { s with st := .have2, x1 := b, edges := rest, taken := s.taken ++ [b] }

/-- R91: in HAVE2 every byte is stored in `x[2]`, the cursor moves to HAVE3 and nothing is emitted; its word is
`1 10 bbbbbbbb`. -/
def Obligations.CaptureTwoStoresSecondField : Prop :=
  ∀ (s : State) (b : Byte), s.st = .have2 →
    exec (.cap2 b) s = .next { s with st := .have3, x2 := b, taken := s.taken ++ [b] } ∧
    (eventWord .have2 (.ofByte b)).w &&& 0x700#11 = 0x600#11 ∧
    ∀ rest, s.edges = .ofByte b :: rest →
      select s.st (.ofByte b) = .cap2 b ∧ outRecord s (.ofByte b) = none ∧ outValid s (.ofByte b) = false ∧
      step s = .next { s with st := .have3, x2 := b, edges := rest, taken := s.taken ++ [b] }

/-- R100: in HAVE3 every byte completes the record `(x[1], x[2], b)`, which is emitted in the same step; the pending
registers are held and the cursor returns to AWAIT; its word is `1 11 bbbbbbbb`. -/
def Obligations.EmitDeliversRecord : Prop :=
  ∀ (s : State) (b : Byte), s.st = .have3 →
    exec (.emit b) s =
      .next { s with st := .await, taken := s.taken ++ [b], out := s.out ++ [⟨s.x1, s.x2, b⟩] } ∧
    (eventWord .have3 (.ofByte b)).w &&& 0x700#11 = 0x700#11 ∧
    ∀ rest, s.edges = .ofByte b :: rest →
      select s.st (.ofByte b) = .emit b ∧ outRecord s (.ofByte b) = some ⟨s.x1, s.x2, b⟩ ∧
      outValid s (.ofByte b) = true ∧
      step s = .next { s with
        st := .await
        edges := rest
        taken := s.taken ++ [b]
        out := s.out ++ [⟨s.x1, s.x2, b⟩] }

/-! ## The step, the decoder and the encoder -/

/-- R64, R54: a step executes the operation that its edge's pins and the cursor decode to, on the state from which the
edge is gone; an edge that the list does not give changes nothing (the model's choice, log 1). -/
def Obligations.StepRunsDecodedOperation : Prop :=
  (∀ (s : State) (p : PortSample) (rest : List PortSample), s.edges = p :: rest →
    step s = exec (decode ⟨p.rst, decodeWord p.inValid s.st p.inData⟩) { s with edges := rest }) ∧
  ∀ s : State, s.edges = [] → step s = .next s

/-- R64: at each edge exactly one operation executes: RESET if `rst`, whatever the other inputs; else IDLE if `in_valid`
is 0; else a byte step with `in_data`, decoded by the cursor and the byte. -/
def Obligations.EventPriority : Prop :=
  (∀ (st : Cursor) (p : PortSample),
    (p.rst = true → select st p = .reset) ∧
    (p.rst = false → p.inValid = false → select st p = .idle) ∧
    (p.rst = false → p.inValid = true → select st p = decodeByteStep Config.preamble st p.inData)) ∧
  ∀ (s : State) (p : PortSample) (rest : List PortSample), s.edges = p :: rest →
    step s = exec (select s.st p) { s with edges := rest }

/-- R63: the decoder is the opcode table read in priority order; an operation that carries a byte carries the word's
low eight bits; two rows select the same word only where they are SYNC and SKIP; and outside AWAIT the byte does not
matter to which operation is selected. -/
def Obligations.DecoderIsTheOpcodeTable : Prop :=
  (∀ e : EventWord, tableOp e = some (decode e).op) ∧
  (∀ (e : EventWord) (b : Byte), (decode e).operand = some b → b = wByte e.w) ∧
  (∀ r₁ ∈ opcodeRows, ∀ r₂ ∈ opcodeRows, ∀ w : BitVec 11, r₁.hits w = true → r₂.hits w = true →
    r₁ = r₂ ∨ (r₁.op = .SYNC ∧ r₂.op = .SKIP) ∨ (r₁.op = .SKIP ∧ r₂.op = .SYNC)) ∧
  ∀ (st : Cursor) (b₁ b₂ : Byte), st ≠ .await →
    (select st (.ofByte b₁)).op = (select st (.ofByte b₂)).op

/-- The words of 95_test_vectors.md section 2.2, written out there bit by bit, decode to the operations named there;
a row of no bits is RESET (the model's choice, log 7). -/
def Obligations.WrittenOutWordsDecode : Prop :=
  decodeTableWord 16 0x000 = some .idle ∧ decodeTableWord 16 0x3A5 = some .idle ∧
  decodeTableWord 16 0b10010100101 = some .sync ∧ decodeTableWord 16 0b10010100100 = some (.skip 0xA4#8) ∧
  decodeTableWord 16 0x400 = some (.skip 0x00#8) ∧ decodeTableWord 16 0b10110100101 = some (.cap1 0xA5#8) ∧
  decodeTableWord 16 0b11010100101 = some (.cap2 0xA5#8) ∧ decodeTableWord 16 0b11110100101 = some (.emit 0xA5#8) ∧
  decodeTableWord 16 0x700 = some (.emit 0x00#8) ∧ decodeTableWord 0 0 = some .reset

/-- Decode and encode agree, for every value of the preamble: a well-formed operation is what its encoding decodes to,
whatever fills the bits that no operand uses, and every event is the encoding of the well-formed operation it decodes
to, so no bit of an event is dropped (R62, R63, R65). -/
def Obligations.EncodeDecodeRoundTrip : Prop :=
  (∀ (p : Byte) (i : Instr) (dc : BitVec 11), i.wfAt p = true → decodeAt p (encodeAt p dc i) = i) ∧
  ∀ (p : Byte) (e : EventWord), (decodeAt p e).wfAt p = true ∧ encodeAt p e.w (decodeAt p e) = e

/-- An event of the opcode table placed with withFetchWord is what the next step runs, and a word that no value of `W`
matches is rejected (the model's conventions, logs 7 and 14). -/
def Obligations.PlacedTableWordRunsNext : Prop :=
  (∀ (s : State) (nbits w : Nat), w < 2048 → ∃ i, decodeTableWord nbits w = some i ∧
    step (s.withFetchWord nbits w) = exec i (s.withFetchWord nbits w).advance) ∧
  ∀ nbits w : Nat, nbits ≠ 0 → 2048 ≤ w → decodeTableWord nbits w = none

/-- R82: the preamble comparison is a full 8-bit equality with 165, and outside AWAIT the preamble's value affects
nothing. -/
def Obligations.PreambleComparisonIsFullEquality : Prop :=
  (∀ b : Byte, isPreamble Config.preamble b = true ↔
    ∀ k, k < 8 → b.getLsbD k = (0b10100101#8).getLsbD k) ∧
  (∀ b : Byte, isPreamble Config.preamble b = true ↔ b.toNat = 165) ∧
  ∀ (st : Cursor) (p₁ p₂ b : Byte), st ≠ .await → decodeByteStep p₁ st b = decodeByteStep p₂ st b

/-- R92: the preamble's value in HAVE1, HAVE2 or HAVE3 is ordinary payload: it is stored or emitted like any other byte,
and no frame is restarted. -/
def Obligations.PreambleIsPayloadInsideFrame : Prop :=
  ∀ (s : State) (rest : List PortSample), s.edges = .ofByte Config.preamble :: rest →
    (s.st = .have1 → step s = .next { s with
      st := .have2, x1 := Config.preamble, edges := rest, taken := s.taken ++ [Config.preamble] }) ∧
    (s.st = .have2 → step s = .next { s with
      st := .have3, x2 := Config.preamble, edges := rest, taken := s.taken ++ [Config.preamble] }) ∧
    (s.st = .have3 → step s = .next { s with
      st := .await, edges := rest, taken := s.taken ++ [Config.preamble],
      out := s.out ++ [⟨s.x1, s.x2, Config.preamble⟩] })

/-! ## The whole machine: totality, frames, cursor, streams -/

/-- R130: nothing is raised, in any state, on any input; every operation and every step completes. -/
def Obligations.EveryStepCompletes : Prop :=
  (∀ (i : Instr) (s : State), ∃ t, exec i s = .next t) ∧ (∀ s : State, ∃ t, step s = .next t) ∧ ∀ _ : Fault, False

/-- R35: an operation changes only the registers its rule names: `x[1]` by CAP1 and RESET, `x[2]` by CAP2 and RESET,
the cursor by no SKIP and no IDLE. The streams and the model's own fields are held likewise: a byte is consumed by the
byte steps alone, a record made by EMIT alone, a free value drawn by RESET alone. -/
def Obligations.OperationsHoldWhatTheyDoNotName : Prop :=
  ∀ (i : Instr) (s t : State), exec i s = .next t →
    (i.op ≠ .CAP1 → i.op ≠ .RESET → t.x1 = s.x1) ∧
    (i.op ≠ .CAP2 → i.op ≠ .RESET → t.x2 = s.x2) ∧
    (i.op = .SKIP ∨ i.op = .IDLE → t.st = s.st) ∧
    (i.op = .IDLE ∨ i.op = .RESET → t.taken = s.taken) ∧
    (i.op ≠ .EMIT → t.out = s.out) ∧
    (i.op ≠ .RESET → t.draws = s.draws) ∧
    t.edges = s.edges

/-- R34: the transition graph. Each operation of a step is selected in the cursor state, and leads to the one, that the
rule gives, and there is no other edge. -/
def Obligations.CursorFollowsTransitionGraph : Prop :=
  ∀ s t : State, step s = .next t →
    match (nextInstr s).op with
    | .RESET => t.st = .await
    | .IDLE => t.st = s.st
    | .SKIP => s.st = .await ∧ t.st = .await
    | .SYNC => s.st = .await ∧ t.st = .have1
    | .CAP1 => s.st = .have1 ∧ t.st = .have2
    | .CAP2 => s.st = .have2 ∧ t.st = .have3
    | .EMIT => s.st = .have3 ∧ t.st = .await

/-- R101: in an EMIT cycle `out_valid` is 1 and the record is `(x[1], x[2], in_data)`; in every other cycle it is 0;
each step appends exactly the record of its cycle to `OUT`; and at most one record is made in any four consecutive byte
steps, whatever IDLE and RESET steps stand among them. -/
def Obligations.OutputPortsShowTheRecord : Prop :=
  (∀ (s : State) (p : PortSample), p.rst = false → p.inValid = true → s.st = .have3 →
    select s.st p = .emit p.inData ∧ outValid s p = true ∧ outRecord s p = some ⟨s.x1, s.x2, p.inData⟩) ∧
  (∀ (s : State) (p : PortSample), (select s.st p).op ≠ .EMIT → outValid s p = false) ∧
  (∀ s t : State, step s = .next t → t.out = s.out ++ (outRecord s (nextEdge s)).toList) ∧
  ∀ (s t : State) (es : List PortSample), (acceptedBytes es).length ≤ 4 → runEdges s es = .next t →
    t.out.length ≤ s.out.length + 1

/-- R40, R42, R49: a step consumes exactly its edge's byte of `IN`, if it is a byte step, and none otherwise; it
appends at most one record to `OUT`; and what the streams held stays. -/
def Obligations.StreamsOnlyGrow : Prop :=
  ∀ s t : State, step s = .next t →
    (∀ b, (nextEdge s).rst = false → (nextEdge s).inValid = true → (nextEdge s).inData = b →
      t.taken = s.taken ++ [b]) ∧
    ((nextEdge s).rst = true ∨ (nextEdge s).inValid = false → t.taken = s.taken ∧ t.out = s.out) ∧
    ∃ rs : List Record, rs.length ≤ 1 ∧ t.out = s.out ++ rs

/-! ## Reset -/

/-- R30, R161: after reset the cursor is AWAIT, `OUT` is empty and `out_valid` is 0 whatever the pins show. That the
pending registers hold the two constants of `X_RESET`, and that no event is listed, is the model's form (logs 1, 2, 3, 5). -/
def Obligations.ResetStateAwaitsWithEmptyStreams : Prop :=
  State.reset.st = .await ∧ State.reset.x1 = Config.xReset1 ∧ State.reset.x2 = Config.xReset2 ∧
  State.reset.edges = [] ∧ State.reset.taken = [] ∧ State.reset.out = [] ∧ State.reset.draws = 0 ∧
  ∀ p : PortSample, outValid State.reset p = false

/-- R135: RESET wins over a byte of the same cycle, which is lost, with no record even in HAVE3; the next cycle is an
ordinary byte step from AWAIT; and the byte that completes a frame makes the record in its own step. -/
def Obligations.ResetWinsOverSimultaneousByte : Prop :=
  (∀ (s : State) (d : Byte) (rest : List PortSample), s.edges = ⟨true, true, d⟩ :: rest →
    outValid s ⟨true, true, d⟩ = false ∧
    ∃ t, step s = .next t ∧ t.st = .await ∧ t.taken = s.taken ∧ t.out = s.out ∧ t.edges = rest) ∧
  (∀ (s : State) (v : Bool) (d b : Byte) (rest : List PortSample), s.edges = ⟨true, v, d⟩ :: .ofByte b :: rest →
    ∃ t, run 2 s = .next t ∧ t.st = (if b = Config.preamble then .have1 else .await) ∧
      t.taken = s.taken ++ [b] ∧ t.out = s.out ∧ t.edges = rest) ∧
  ∀ (s : State) (b : Byte) (rest : List PortSample), s.edges = .ofByte b :: rest → s.st = .have3 →
    ∃ t, step s = .next t ∧ t.out = s.out ++ [⟨s.x1, s.x2, b⟩]

/-- R162, R163: one RESET edge is enough, from any state: a frame that follows it is delivered, whatever was in
progress is discarded with no record, and no unspecified byte is left. -/
def Obligations.FrameAfterResetIsDelivered : Prop :=
  ∀ (s : State) (v : Bool) (d : Byte) (r : Record),
    ∃ t, runEdges s (⟨true, v, d⟩ :: (frameOf Config.preamble r).map .ofByte) = .next t ∧
      t.st = .await ∧ t.x1 = r.code ∧ t.x2 = r.arg1 ∧ t.out = s.out ++ [r]

/-- R32: every value of the cursor with every pair of pending bytes is reachable from reset. -/
def Obligations.EveryRegisterValueIsReachable : Prop :=
  ∀ (st : Cursor) (v₁ v₂ : Byte), ∃ (es : List PortSample) (t : State),
    runEdges State.reset es = .next t ∧ t.st = st ∧ t.x1 = v₁ ∧ t.x2 = v₂

/-! ## The step function, Feed, and the laws of a stream -/

/-- R111: one clock edge of the machine is the function `Clock` of the three registers and the pins, with some bytes in
the place of those RESET leaves unspecified, and its output is the record on the ports, which goes to `OUT`. -/
def Obligations.EdgeRefinesClockFunction : Prop :=
  ∀ s : State, ∃ (d₁ d₂ : Byte) (t : State), step s = .next t ∧
    (t.parser, outRecord s (nextEdge s)) = clock Config.preamble d₁ d₂ s.parser (nextEdge s) ∧
    t.out = s.out ++ (outRecord s (nextEdge s)).toList

/-- R112: `Feed` is the left fold of `Step`, and a call of it with n bytes is n byte steps of the machine in order with
any number of IDLE steps among them, the records being those the machine emits. -/
def Obligations.RunRefinesFeed : Prop :=
  (∀ (p : Byte) (q : Parser), feed p q [] = (q, [])) ∧
  (∀ (p : Byte) (q : Parser) (b : Byte) (rest : List Byte), feed p q (b :: rest) =
    ((feed p (stepByte p q b).1 rest).1, (stepByte p q b).2.toList ++ (feed p (stepByte p q b).1 rest).2)) ∧
  ∀ (s : State) (es : List PortSample), (∀ e ∈ es, e.rst = false) →
    ∃ t, runEdges s es = .next t ∧
      t.parser = (feed Config.preamble s.parser (acceptedBytes es)).1 ∧
      t.out = s.out ++ (feed Config.preamble s.parser (acceptedBytes es)).2 ∧
      t.taken = s.taken ++ acceptedBytes es ∧ t.edges = [] ∧ t.draws = s.draws

/-- R113: an empty buffer changes nothing and yields nothing. -/
def Obligations.EmptyFeedChangesNothing : Prop :=
  (∀ (p : Byte) (q : Parser), feed p q [] = (q, [])) ∧
  ∀ s : State, runEdges s [] = .next { s with edges := [] }

/-- R114: the way a stream is cut changes neither the final state nor the records, for `Feed` and for runs of the
machine, RESET and IDLE edges among them. -/
def Obligations.SplitInvariance : Prop :=
  (∀ (p : Byte) (q q₁ q₂ : Parser) (u v : List Byte) (r₁ r₂ : List Record),
    feed p q u = (q₁, r₁) → feed p q₁ v = (q₂, r₂) → feed p q (u ++ v) = (q₂, r₁ ++ r₂)) ∧
  ∀ (s t : State) (es fs : List PortSample), runEdges s es = .next t → runEdges s (es ++ fs) = runEdges t fs

/-- R116: at most `(n + j) / 4` records from n bytes and a start state of cursor index j; at most one in four bytes;
back-to-back frames meet the bound. -/
def Obligations.RecordRateIsBounded : Prop :=
  (∀ (p : Byte) (q : Parser) (bs : List Byte),
    (feed p q bs).2.length ≤ (bs.length + cursorIndex q.st) / 4 ∧ (bs.length = 4 → (feed p q bs).2.length ≤ 1)) ∧
  ∀ (p x₁ x₂ : Byte) (rs : List Record),
    (feed p ⟨.await, x₁, x₂⟩ (rs.flatMap (frameOf p))).2.length = (rs.flatMap (frameOf p)).length / 4

/-- R117: input without a preamble. From AWAIT nothing happens; from another cursor state exactly one record is made if
the input is long enough, of the pending bytes and the bytes that complete it, and the hunt goes on; if it is shorter,
none, and the cursor advances by the number of bytes. -/
def Obligations.InputWithoutPreamble : Prop :=
  ∀ (p x₁ x₂ : Byte) (bs : List Byte), p ∉ bs →
    feed p ⟨.await, x₁, x₂⟩ bs = (⟨.await, x₁, x₂⟩, []) ∧
    (∀ b₁ b₂ b₃ : Byte, feed p ⟨.have1, x₁, x₂⟩ (b₁ :: b₂ :: b₃ :: bs) = (⟨.await, b₁, b₂⟩, [⟨b₁, b₂, b₃⟩])) ∧
    (∀ b₂ b₃ : Byte, feed p ⟨.have2, x₁, x₂⟩ (b₂ :: b₃ :: bs) = (⟨.await, x₁, b₂⟩, [⟨x₁, b₂, b₃⟩])) ∧
    (∀ b₃ : Byte, feed p ⟨.have3, x₁, x₂⟩ (b₃ :: bs) = (⟨.await, x₁, x₂⟩, [⟨x₁, x₂, b₃⟩])) ∧
    ∀ st : Cursor, st ≠ .await → bs.length + cursorIndex st < 4 →
      (feed p ⟨st, x₁, x₂⟩ bs).2 = [] ∧
      cursorIndex (feed p ⟨st, x₁, x₂⟩ bs).1.st = cursorIndex st + bs.length

/-- R83: from AWAIT the bytes before the first preamble are lost without trace, and the first preamble, not a byte
before it, opens a frame. -/
def Obligations.HuntEndsAtFirstPreamble : Prop :=
  ∀ (p x₁ x₂ : Byte) (bs rest : List Byte), p ∉ bs →
    feed p ⟨.await, x₁, x₂⟩ bs = (⟨.await, x₁, x₂⟩, []) ∧
    feed p ⟨.await, x₁, x₂⟩ (bs ++ p :: rest) = feed p ⟨.have1, x₁, x₂⟩ rest

/-- R118: the round trip, for all payload bytes, those equal to the preamble too, and for frames back to back. -/
def Obligations.FramesRoundTrip : Prop :=
  (∀ p c a₁ a₂ x₁ x₂ : Byte,
    feed p ⟨.await, x₁, x₂⟩ (encodeFrame p c a₁ a₂) = (⟨.await, c, a₁⟩, [⟨c, a₁, a₂⟩])) ∧
  ∀ (p x₁ x₂ : Byte) (rs : List Record),
    (feed p ⟨.await, x₁, x₂⟩ (rs.flatMap (frameOf p))).2 = rs ∧
    (feed p ⟨.await, x₁, x₂⟩ (rs.flatMap (frameOf p))).1.st = .await

/-- R119: one, two or three bytes of a frame yield no record and are kept, and the missing bytes complete it. -/
def Obligations.PartialFramesAreKept : Prop :=
  ∀ p a b c x₁ x₂ : Byte,
    feed p ⟨.await, x₁, x₂⟩ [p] = (⟨.have1, x₁, x₂⟩, []) ∧
    feed p ⟨.await, x₁, x₂⟩ [p, a] = (⟨.have2, a, x₂⟩, []) ∧
    feed p ⟨.await, x₁, x₂⟩ [p, a, b] = (⟨.have3, a, b⟩, []) ∧
    (feed p ⟨.have1, x₁, x₂⟩ [a, b, c]).2 = [⟨a, b, c⟩] ∧
    (feed p ⟨.have2, a, x₂⟩ [b, c]).2 = [⟨a, b, c⟩] ∧
    (feed p ⟨.have3, a, b⟩ [c]).2 = [⟨a, b, c⟩]

/-- R120: four bytes opened by the preamble yield exactly one record from every start state, but only from AWAIT is it
the frame's. -/
def Obligations.FourByteWindowYieldsOneRecord : Prop :=
  (∀ (p a b c : Byte) (q : Parser), (feed p q [p, a, b, c]).2.length = 1) ∧
  ∀ p a b c x₁ x₂ : Byte,
    (feed p ⟨.await, x₁, x₂⟩ [p, a, b, c]).2 = [⟨a, b, c⟩] ∧
    feed p ⟨.have1, x₁, x₂⟩ [p, a, b, c] = (⟨if c = p then .have1 else .await, p, a⟩, [⟨p, a, b⟩]) ∧
    (feed p ⟨.have2, x₁, x₂⟩ [p, a, b, c]).2 = [⟨x₁, p, a⟩] ∧
    (feed p ⟨.have3, x₁, x₂⟩ [p, a, b, c]).2 = [⟨x₁, x₂, p⟩]

/-- R121, R110: IDLE edges may be left out of any run, RESET edges among them: from states that differ at most in what
no output can tell, whatever free values RESET draws in either run (log 3), the two runs end in the same cursor with the
same streams and the same bytes of the frame in progress. With no RESET a run, its pending registers too, depends on
the bytes it is given and on nothing else. -/
def Obligations.RunsDoNotDependOnTime : Prop :=
  (∀ (s s' : State) (es : List PortSample), SameButUnwritten s s' →
    ∃ t t', runEdges s es = .next t ∧ runEdges s' (es.filter fun e => e.rst || e.inValid) = .next t' ∧
      SameButUnwritten t t') ∧
  ∀ (s : State) (es fs : List PortSample), (∀ e ∈ es, e.rst = false) → (∀ e ∈ fs, e.rst = false) →
    acceptedBytes es = acceptedBytes fs → runEdges s es = runEdges s fs

/-- R70: the companion encoder, with its defaults, and the frame's length (R60). -/
def Obligations.EncodeFrameLaysOutFrame : Prop :=
  ∀ c a₁ a₂ : Byte,
    encodeFrame Config.preamble c a₁ a₂ = [165#8, c, a₁, a₂] ∧
    encodeFrame Config.preamble c = [165#8, c, 0#8, 0#8] ∧
    (encodeFrame Config.preamble c a₁ a₂).length = Config.frameLen

/-! ## Invariants, two runs, and alignment -/

/-- R31, R22: every step keeps it that the bytes of the frame in progress, the preamble and what the pending registers
hold of it, are the bytes consumed last. -/
def Obligations.StepKeepsPendingValid : Prop :=
  ∀ s t : State, PendingValid s → step s = .next t → PendingValid t

/-- R42, R45, R52, R103, R163: every step keeps it that the bytes of `IN` are skipped bytes, whole frames, partial
frames that RESET discarded and the frame in progress, and that `OUT` is the records of the whole frames in order. A
step keeps the reading it finds and adds at most one stretch to it, and with `rst` 0 no partial frame: so a partial
frame arises at a RESET edge alone, and at every other a frame that is complete is a record. -/
def Obligations.StepKeepsOutMatchesIn : Prop :=
  (∀ s t : State, OutMatchesIn s → step s = .next t → OutMatchesIn t) ∧
  ∀ (pieces : List Piece) (s t : State), OutMatchesInAs pieces s → step s = .next t →
    ∃ added : List Piece, added.length ≤ 1 ∧
      ((nextEdge s).rst = false → ∀ c ∈ added, c.isDropped = false) ∧ OutMatchesInAs (pieces ++ added) t

/-- R116 over the machine's streams: every step keeps it that four bytes were consumed for each record, and those of the
frame in progress besides. -/
def Obligations.StepKeepsRateBounded : Prop :=
  ∀ s t : State, RateBounded s → step s = .next t → RateBounded t

/-- The three invariants hold at reset. -/
def Obligations.ResetMeetsTheInvariants : Prop :=
  PendingValid State.reset ∧ OutMatchesIn State.reset ∧ RateBounded State.reset

/-- R31: two states that differ at most in the draw counter and in pending registers that hold no byte of the frame in
progress show the same output at every edge and stay so related; hence no record of a run from reset depends on what
reset left in the pending registers, nor on what a later RESET leaves. -/
def Obligations.ResetValuesAreUnobservable : Prop :=
  (∀ s t : State, SameButUnwritten s t → ∃ s' t', step s = .next s' ∧ step t = .next t' ∧
    SameButUnwritten s' t' ∧ outRecord s (nextEdge s) = outRecord t (nextEdge t)) ∧
  ∀ (v₁ v₂ : Byte) (n : Nat) (es : List PortSample) (s t : State),
    runEdges State.reset es = .next s →
    runEdges { State.reset with x1 := v₁, x2 := v₂, draws := n } es = .next t →
    s.out = t.out ∧ s.st = t.st ∧ s.taken = t.taken

/-- R46: an RXF in AWAIT at the start of a sender's stream of whole frames and non-preamble bytes between them is
misaligned at no point of it, ends in AWAIT, and delivers exactly the sender's frames in order, whatever their payload.
How alignment is read off the stream is log 15. -/
def Obligations.AlignmentIsKept : Prop :=
  ∀ (items : List Sent) (s : State), (∀ i ∈ items, i.quiet) → s.st = .await →
    (∀ k, k ≤ (tagged items).length → ∃ t, run k (s.withEdges (edgesOf (tagged items))) = .next t ∧
      alignment (tagged items) k t.st ≠ .misaligned) ∧
    ∃ t, runEdges s (edgesOf (tagged items)) = .next t ∧ t.st = .await ∧
      t.out = s.out ++ items.filterMap Sent.record

/-- R48, vector V22: misalignment can last for ever. An RXF in AWAIT that starts at the third byte of a sender frame
`A5 f A5 g`, sent again and again, is misaligned at every point of the stream and makes of every frame the wrong record
`(g, A5, f)`, however often the frame is sent. How alignment is read off the stream is log 15. -/
def Obligations.PeriodicStreamKeepsMisaligned : Prop :=
  ∀ (f g : Byte) (n : Nat) (s : State) (stream : List (Role × Byte)), s.st = .await →
    stream = [(.field2, Config.preamble), (.field3, g)] ++
      tagged (List.replicate n (.frame ⟨f, Config.preamble, g⟩)) →
    (∀ k, k ≤ stream.length → ∃ t, run k (s.withEdges (edgesOf stream)) = .next t ∧
      alignment stream k t.st = .misaligned) ∧
    ∃ t, runEdges s (edgesOf stream) = .next t ∧
      t.out = s.out ++ List.replicate n ⟨g, Config.preamble, f⟩ ∧ t.st = .have2 ∧ t.x1 = g
end

