-- ==== Sys2Proof/Laws/Decode.lean ====
section
/-! SUPPORT. The fields of a decode word and what the decoder answers, once for each case of R63 and R64. -/

namespace Sys2Proof

@[simp] theorem Cursor.ofBits_toBits (st : Cursor) : Cursor.ofBits st.toBits = st := by
  cases st <;> rfl

@[simp] theorem Cursor.toBits_ofBits : ∀ v : BitVec 2, (Cursor.ofBits v).toBits = v := by
  decide

@[simp] theorem wValid_decodeWord (v : Bool) (st : Cursor) (b : Byte) : wValid (decodeWord v st b) = v := by
  simp only [wValid, decodeWord, BitVec.getLsbD_append]
  cases v <;> rfl

@[simp] theorem wByte_decodeWord (v : Bool) (st : Cursor) (b : Byte) : wByte (decodeWord v st b) = b := by
  apply BitVec.eq_of_getLsbD_eq
  intro i hi
  have h10 : i < 2 + 8 := by omega
  simp only [wByte, decodeWord, BitVec.getLsbD_extractLsb', BitVec.getLsbD_append]
  simp [hi, h10]

@[simp] theorem wCursor_decodeWord (v : Bool) (st : Cursor) (b : Byte) : wCursor (decodeWord v st b) = st := by
  have h : (decodeWord v st b).extractLsb' 8 2 = st.toBits := by
    apply BitVec.eq_of_getLsbD_eq
    intro i hi
    have h10 : 8 + i < 2 + 8 := by omega
    simp only [decodeWord, BitVec.getLsbD_extractLsb', BitVec.getLsbD_append]
    simp [hi, h10]
  simp [wCursor, h]

/-- A word is its three fields (R62). -/
theorem decodeWord_fields (w : BitVec 11) : decodeWord (wValid w) (wCursor w) (wByte w) = w := by
  apply BitVec.eq_of_getLsbD_eq
  intro i hi
  simp only [decodeWord, wValid, wCursor, wByte, Cursor.toBits_ofBits, BitVec.getLsbD_append,
    BitVec.getLsbD_extractLsb', BitVec.getLsbD_ofBool]
  by_cases h8 : i < 8
  · have h10 : i < 2 + 8 := by omega
    simp [h8, h10]
  · by_cases h10 : i < 2 + 8
    · have e : 8 + (i - 8) = i := by omega
      have hlt : i - 8 < 2 := by omega
      simp [h8, h10, e, hlt]
    · have e : i = 10 := by omega
      subst e
      simp

@[simp] theorem isPreamble_iff (p b : Byte) : isPreamble p b = true ↔ b = p := by
  simp [isPreamble]

/-- RESET is selected before the word is looked at (R64). -/
@[simp] theorem decodeAt_rst (p : Byte) (w : BitVec 11) : decodeAt p ⟨true, w⟩ = .reset := rfl

/-- With `rst` and `in_valid` 0 the operation is IDLE (R64). -/
theorem decodeAt_idle {p : Byte} {w : BitVec 11} (h : wValid w = false) : decodeAt p ⟨false, w⟩ = .idle := by
  simp [decodeAt, h]

/-- A byte step is decoded by the cursor and the byte (R63). -/
@[simp] theorem decodeAt_byteStep (p : Byte) (st : Cursor) (b : Byte) :
    decodeAt p ⟨false, decodeWord true st b⟩ = decodeByteStep p st b := by
  simp [decodeAt]

@[simp] theorem decodeByteStep_await_preamble (p : Byte) : decodeByteStep p .await p = .sync := by
  simp [decodeByteStep, isPreamble]

theorem decodeByteStep_await_other {p b : Byte} (h : b ≠ p) : decodeByteStep p .await b = .skip b := by
  simp [decodeByteStep, isPreamble, h]

@[simp] theorem decodeByteStep_have1 (p b : Byte) : decodeByteStep p .have1 b = .cap1 b := rfl
@[simp] theorem decodeByteStep_have2 (p b : Byte) : decodeByteStep p .have2 b = .cap2 b := rfl
@[simp] theorem decodeByteStep_have3 (p b : Byte) : decodeByteStep p .have3 b = .emit b := rfl

end Sys2Proof
end

