-- ==== Sys2Proof/Laws/PerInstr.lean ====
section
/-! SUPPORT. A statement about every operation, one lemma for each constructor. -/

namespace Sys2Proof.Laws.EncodingRoundTrip

/-- A well-formed operation is the one its encoding decodes to, whatever fills the bits no operand uses (R62, R63). -/
def Statement (i : Instr) : Prop :=
  i.wf = true → ∀ dc : BitVec 11, decode (encodeAt Config.preamble dc i) = i

theorem reset : Statement .reset := fun _ _ => rfl

theorem idle : Statement .idle := by
  intro _ dc
  apply decodeAt_idle
  simp [wValid]

theorem sync : Statement .sync := by
  intro _ dc
  simp [decode, encodeAt]

theorem skip (b : Byte) : Statement (.skip b) := by
  intro h dc
  have hb : b ≠ Config.preamble := by simpa [Instr.wf, Instr.wfAt] using h
  simp [decode, encodeAt, decodeByteStep_await_other hb]

theorem cap1 (b : Byte) : Statement (.cap1 b) := by
  intro _ dc
  simp [decode, encodeAt]

theorem cap2 (b : Byte) : Statement (.cap2 b) := by
  intro _ dc
  simp [decode, encodeAt]

theorem emit (b : Byte) : Statement (.emit b) := by
  intro _ dc
  simp [decode, encodeAt]

end Sys2Proof.Laws.EncodingRoundTrip
end

