-- ==== Sys2Proof/Laws/State.lean ====
section
/-! SUPPORT. One lemma for each field of State and each update: what the update leaves in the field. -/

namespace Sys2Proof.Machine

variable (s : State)

@[simp] theorem State.setCursor_st (c : Cursor) : (s.setCursor c).st = c := rfl
@[simp] theorem State.setCursor_x1 (c : Cursor) : (s.setCursor c).x1 = s.x1 := rfl
@[simp] theorem State.setCursor_x2 (c : Cursor) : (s.setCursor c).x2 = s.x2 := rfl
@[simp] theorem State.setCursor_edges (c : Cursor) : (s.setCursor c).edges = s.edges := rfl
@[simp] theorem State.setCursor_taken (c : Cursor) : (s.setCursor c).taken = s.taken := rfl
@[simp] theorem State.setCursor_out (c : Cursor) : (s.setCursor c).out = s.out := rfl
@[simp] theorem State.setCursor_draws (c : Cursor) : (s.setCursor c).draws = s.draws := rfl

@[simp] theorem State.setX1_st (v : Byte) : (s.setX1 v).st = s.st := rfl
@[simp] theorem State.setX1_x1 (v : Byte) : (s.setX1 v).x1 = v := rfl
@[simp] theorem State.setX1_x2 (v : Byte) : (s.setX1 v).x2 = s.x2 := rfl
@[simp] theorem State.setX1_edges (v : Byte) : (s.setX1 v).edges = s.edges := rfl
@[simp] theorem State.setX1_taken (v : Byte) : (s.setX1 v).taken = s.taken := rfl
@[simp] theorem State.setX1_out (v : Byte) : (s.setX1 v).out = s.out := rfl
@[simp] theorem State.setX1_draws (v : Byte) : (s.setX1 v).draws = s.draws := rfl

@[simp] theorem State.setX2_st (v : Byte) : (s.setX2 v).st = s.st := rfl
@[simp] theorem State.setX2_x1 (v : Byte) : (s.setX2 v).x1 = s.x1 := rfl
@[simp] theorem State.setX2_x2 (v : Byte) : (s.setX2 v).x2 = v := rfl
@[simp] theorem State.setX2_edges (v : Byte) : (s.setX2 v).edges = s.edges := rfl
@[simp] theorem State.setX2_taken (v : Byte) : (s.setX2 v).taken = s.taken := rfl
@[simp] theorem State.setX2_out (v : Byte) : (s.setX2 v).out = s.out := rfl
@[simp] theorem State.setX2_draws (v : Byte) : (s.setX2 v).draws = s.draws := rfl

@[simp] theorem State.takeByte_st (b : Byte) : (s.takeByte b).st = s.st := rfl
@[simp] theorem State.takeByte_x1 (b : Byte) : (s.takeByte b).x1 = s.x1 := rfl
@[simp] theorem State.takeByte_x2 (b : Byte) : (s.takeByte b).x2 = s.x2 := rfl
@[simp] theorem State.takeByte_edges (b : Byte) : (s.takeByte b).edges = s.edges := rfl
@[simp] theorem State.takeByte_taken (b : Byte) : (s.takeByte b).taken = s.taken ++ [b] := rfl
@[simp] theorem State.takeByte_out (b : Byte) : (s.takeByte b).out = s.out := rfl
@[simp] theorem State.takeByte_draws (b : Byte) : (s.takeByte b).draws = s.draws := rfl

@[simp] theorem State.emit_st (r : Record) : (s.emit r).st = s.st := rfl
@[simp] theorem State.emit_x1 (r : Record) : (s.emit r).x1 = s.x1 := rfl
@[simp] theorem State.emit_x2 (r : Record) : (s.emit r).x2 = s.x2 := rfl
@[simp] theorem State.emit_edges (r : Record) : (s.emit r).edges = s.edges := rfl
@[simp] theorem State.emit_taken (r : Record) : (s.emit r).taken = s.taken := rfl
@[simp] theorem State.emit_out (r : Record) : (s.emit r).out = s.out ++ [r] := rfl
@[simp] theorem State.emit_draws (r : Record) : (s.emit r).draws = s.draws := rfl

@[simp] theorem State.disturb_st : (s.disturb).st = s.st := rfl
@[simp] theorem State.disturb_x1 : (s.disturb).x1 = Config.resetDraw s.draws s.x1 := rfl
@[simp] theorem State.disturb_x2 : (s.disturb).x2 = Config.resetDraw (s.draws + 1) s.x2 := rfl
@[simp] theorem State.disturb_edges : (s.disturb).edges = s.edges := rfl
@[simp] theorem State.disturb_taken : (s.disturb).taken = s.taken := rfl
@[simp] theorem State.disturb_out : (s.disturb).out = s.out := rfl
@[simp] theorem State.disturb_draws : (s.disturb).draws = s.draws + 2 := rfl

@[simp] theorem State.advance_st : (s.advance).st = s.st := rfl
@[simp] theorem State.advance_x1 : (s.advance).x1 = s.x1 := rfl
@[simp] theorem State.advance_x2 : (s.advance).x2 = s.x2 := rfl
@[simp] theorem State.advance_edges : (s.advance).edges = s.edges.tail := rfl
@[simp] theorem State.advance_taken : (s.advance).taken = s.taken := rfl
@[simp] theorem State.advance_out : (s.advance).out = s.out := rfl
@[simp] theorem State.advance_draws : (s.advance).draws = s.draws := rfl

@[simp] theorem State.withEdges_st (es : List PortSample) : (s.withEdges es).st = s.st := rfl
@[simp] theorem State.withEdges_x1 (es : List PortSample) : (s.withEdges es).x1 = s.x1 := rfl
@[simp] theorem State.withEdges_x2 (es : List PortSample) : (s.withEdges es).x2 = s.x2 := rfl
@[simp] theorem State.withEdges_edges (es : List PortSample) : (s.withEdges es).edges = es := rfl
@[simp] theorem State.withEdges_taken (es : List PortSample) : (s.withEdges es).taken = s.taken := rfl
@[simp] theorem State.withEdges_out (es : List PortSample) : (s.withEdges es).out = s.out := rfl
@[simp] theorem State.withEdges_draws (es : List PortSample) : (s.withEdges es).draws = s.draws := rfl

@[simp] theorem State.withFetchWord_x1 (nbits w : Nat) : (s.withFetchWord nbits w).x1 = s.x1 := rfl
@[simp] theorem State.withFetchWord_x2 (nbits w : Nat) : (s.withFetchWord nbits w).x2 = s.x2 := rfl
@[simp] theorem State.withFetchWord_taken (nbits w : Nat) : (s.withFetchWord nbits w).taken = s.taken := rfl
@[simp] theorem State.withFetchWord_out (nbits w : Nat) : (s.withFetchWord nbits w).out = s.out := rfl
@[simp] theorem State.withFetchWord_draws (nbits w : Nat) : (s.withFetchWord nbits w).draws = s.draws := rfl

@[simp] theorem State.parser_st : s.parser.st = s.st := rfl
@[simp] theorem State.parser_x1 : s.parser.x1 = s.x1 := rfl
@[simp] theorem State.parser_x2 : s.parser.x2 = s.x2 := rfl

/-- A state is its seven fields. -/
theorem State.ext_fields {s t : State} (h1 : s.st = t.st) (h2 : s.x1 = t.x1) (h3 : s.x2 = t.x2) (h4 : s.edges = t.edges)
    (h5 : s.taken = t.taken) (h6 : s.out = t.out) (h7 : s.draws = t.draws) : s = t := by
  cases s; cases t; simp_all

end Sys2Proof.Machine
end

