-- ==== Sys2Proof/Laws/Step.lean ====
section
/-! SUPPORT. What an operation and a step can do, said once: later proofs cite these lemmas and unfold neither the
meanings nor the decoder. -/

namespace Sys2Proof.Machine

/-! ## The operation of an edge (R64) -/

theorem select_rst {st : Cursor} {p : PortSample} (h : p.rst = true) : select st p = .reset := by
  simp [select, eventWord, decode, h]

theorem select_idle {st : Cursor} {p : PortSample} (hr : p.rst = false) (hv : p.inValid = false) :
    select st p = .idle := by
  simp [select, eventWord, decode, hr, hv, decodeAt]

theorem select_byte {st : Cursor} {p : PortSample} (hr : p.rst = false) (hv : p.inValid = true) :
    select st p = decodeByteStep Config.preamble st p.inData := by
  simp [select, eventWord, decode, hr, hv]

theorem nextEdge_eq_head {s : State} {p : PortSample} {rest : List PortSample} (h : s.edges = p :: rest) :
    nextEdge s = p := by
  simp [nextEdge, h]

/-! ## What each operation answers (R160, R110, R81, R80, R90, R91, R100) -/

@[simp] theorem exec_reset (s : State) : exec .reset s = .next (s.disturb.setCursor .await) := rfl
@[simp] theorem exec_idle (s : State) : exec .idle s = .next s := rfl
@[simp] theorem exec_sync (s : State) :
    exec .sync s = .next ((s.takeByte Config.preamble).setCursor .have1) := rfl
@[simp] theorem exec_skip (b : Byte) (s : State) : exec (.skip b) s = .next (s.takeByte b) := rfl
@[simp] theorem exec_cap1 (b : Byte) (s : State) :
    exec (.cap1 b) s = .next (((s.takeByte b).setX1 b).setCursor .have2) := rfl
@[simp] theorem exec_cap2 (b : Byte) (s : State) :
    exec (.cap2 b) s = .next (((s.takeByte b).setX2 b).setCursor .have3) := rfl
@[simp] theorem exec_emit (b : Byte) (s : State) :
    exec (.emit b) s = .next (((s.takeByte b).emit (s.recordWith b)).setCursor .await) := rfl

/-! ## What a step can do -/

/-- The seven cases of a step, guards included: the one inversion lemma of the machine. -/
theorem step_cases {s t : State} (h : step s = .next t) :
    ((nextEdge s).rst = true ∧ t = (s.advance.disturb).setCursor .await) ∨
    ((nextEdge s).rst = false ∧ (nextEdge s).inValid = false ∧ t = s.advance) ∨
    ((nextEdge s).accepted = some Config.preamble ∧ s.st = .await ∧
      t = (s.advance.takeByte Config.preamble).setCursor .have1) ∨
    (∃ b, (nextEdge s).accepted = some b ∧ s.st = .await ∧ b ≠ Config.preamble ∧ t = s.advance.takeByte b) ∨
    (∃ b, (nextEdge s).accepted = some b ∧ s.st = .have1 ∧
      t = ((s.advance.takeByte b).setX1 b).setCursor .have2) ∨
    (∃ b, (nextEdge s).accepted = some b ∧ s.st = .have2 ∧
      t = ((s.advance.takeByte b).setX2 b).setCursor .have3) ∨
    (∃ b, (nextEdge s).accepted = some b ∧ s.st = .have3 ∧
      t = ((s.advance.takeByte b).emit (s.recordWith b)).setCursor .await) := by
  unfold step nextInstr at h
  by_cases hr : (nextEdge s).rst = true
  · rw [select_rst hr, exec_reset] at h
    cases h
    exact .inl ⟨hr, rfl⟩
  have hr' : (nextEdge s).rst = false := by simpa using hr
  by_cases hv : (nextEdge s).inValid = true
  · have ha : (nextEdge s).accepted = some (nextEdge s).inData := by
      simp [PortSample.accepted, hr', hv]
    rw [select_byte hr' hv] at h
    cases hst : s.st with
    | await =>
      by_cases hb : (nextEdge s).inData = Config.preamble
      · rw [hst, hb, decodeByteStep_await_preamble, exec_sync] at h
        cases h
        exact .inr (.inr (.inl ⟨by rw [ha, hb], rfl, rfl⟩))
      · rw [hst, decodeByteStep_await_other hb, exec_skip] at h
        cases h
        exact .inr (.inr (.inr (.inl ⟨_, ha, rfl, hb, rfl⟩)))
    | have1 =>
      rw [hst, decodeByteStep_have1, exec_cap1] at h
      cases h
      exact .inr (.inr (.inr (.inr (.inl ⟨_, ha, rfl, rfl⟩))))
    | have2 =>
      rw [hst, decodeByteStep_have2, exec_cap2] at h
      cases h
      exact .inr (.inr (.inr (.inr (.inr (.inl ⟨_, ha, rfl, rfl⟩)))))
    | have3 =>
      rw [hst, decodeByteStep_have3, exec_emit] at h
      cases h
      exact .inr (.inr (.inr (.inr (.inr (.inr ⟨_, ha, rfl, rfl⟩)))))
  · have hv' : (nextEdge s).inValid = false := by simpa using hv
    rw [select_idle hr' hv', exec_idle] at h
    cases h
    exact .inr (.inl ⟨hr', hv', rfl⟩)

/-- A step over an empty list of edges changes nothing (log 1). -/
theorem step_quiet {s : State} (h : s.edges = []) : step s = .next s := by
  have hs : nextEdge s = PortSample.quiet := by simp [nextEdge, h]
  have ha : s.advance = s := by cases s; simp_all [State.advance]
  have hi : nextInstr s = .idle := by
    unfold nextInstr
    rw [hs]
    exact select_idle rfl rfl
  rw [step, hi, exec_idle, ha]

end Sys2Proof.Machine
end

