-- ==== Sys2Proof/Laws/Stream.lean ====
section
/-! SUPPORT. One equation for each case of the functions over streams and runs; later proofs cite these and unfold none
of the functions. -/

namespace Sys2Proof

@[simp] theorem PortSample.accepted_ofByte (b : Byte) : (PortSample.ofByte b).accepted = some b := rfl

theorem PortSample.accepted_rst {p : PortSample} (h : p.rst = true) : p.accepted = none := by
  simp [PortSample.accepted, h]

theorem PortSample.accepted_idle {p : PortSample} (h : p.inValid = false) : p.accepted = none := by
  simp [PortSample.accepted, h]

/-- The bytes of a list of edges are those of its first edge and then the others (R40). -/
theorem acceptedBytes_cons (p : PortSample) (ps : List PortSample) :
    acceptedBytes (p :: ps) = p.accepted.toList ++ acceptedBytes ps := by
  cases h : p.accepted <;> simp [acceptedBytes, h]

namespace Machine

theorem stepByte_preamble (p x₁ x₂ : Byte) : stepByte p ⟨.await, x₁, x₂⟩ p = (⟨.have1, x₁, x₂⟩, none) := by
  simp [stepByte]

theorem stepByte_other {p b : Byte} (x₁ x₂ : Byte) (h : b ≠ p) :
    stepByte p ⟨.await, x₁, x₂⟩ b = (⟨.await, x₁, x₂⟩, none) := by
  simp [stepByte, h]

theorem stepByte_have1 (p b x₁ x₂ : Byte) : stepByte p ⟨.have1, x₁, x₂⟩ b = (⟨.have2, b, x₂⟩, none) := rfl
theorem stepByte_have2 (p b x₁ x₂ : Byte) : stepByte p ⟨.have2, x₁, x₂⟩ b = (⟨.have3, x₁, b⟩, none) := rfl
theorem stepByte_have3 (p b x₁ x₂ : Byte) :
    stepByte p ⟨.have3, x₁, x₂⟩ b = (⟨.await, x₁, x₂⟩, some ⟨x₁, x₂, b⟩) := rfl

theorem run_zero (s : State) : run 0 s = .next s := rfl

/-- A run's first step, when it answers a next state. -/
theorem run_succ {k : Nat} {s t : State} (h : step s = .next t) : run (k + 1) s = run k t := by
  simp [run, h]

/-- An edge leaves the edges after it. -/
theorem step_edges {s t : State} (h : step s = .next t) : t.edges = s.edges.tail := by
  rcases step_cases h with ⟨_, rfl⟩ | ⟨_, _, rfl⟩ | ⟨_, _, rfl⟩ | ⟨_, _, _, _, rfl⟩ | ⟨_, _, _, rfl⟩ | ⟨_, _, _, rfl⟩ |
    ⟨_, _, _, rfl⟩ <;> simp

/-- A run over a list of events is its first edge and then the others (R122). -/
theorem runEdges_cons {s t : State} {e : PortSample} {es : List PortSample}
    (h : step (s.withEdges (e :: es)) = .next t) : runEdges s (e :: es) = runEdges t es := by
  have ht : t.withEdges es = t := by
    have he : t.edges = es := by rw [step_edges h]; rfl
    rw [← he]; rfl
  simp only [runEdges, List.length_cons, run_succ h, ht]

end Machine

end Sys2Proof
end

