-- ==== Sys2Proof/Tests/Slice0.lean ====
section
/-! SUPPORT. Small tests, expected results from 95_test_vectors.md (T, E) and from the encodings of 30_encoding.md, and
one witness for each statement that has hypotheses. -/

namespace Sys2Proof.Tests

open Sys2Proof.Machine Sys2Proof.Safety

/-- A state with both streams empty. -/
def stateAt (st : Cursor) (x1 x2 : Byte) (edges : List PortSample) : State := ⟨st, x1, x2, edges, [], [], 0⟩

/-- The next state of an outcome, if it is one. -/
def nextOf : Host.Outcome State Fault Refusal → Option State
  | .next s => some s
  | .fault _ => none
  | .refused _ => none

/-- What a step from a state shows: the three registers, the records made and the bytes consumed. -/
def after (s : State) : Option (Cursor × Byte × Byte × List Record × List Byte) :=
  (nextOf (step s)).map fun t => (t.st, t.x1, t.x2, t.out, t.taken)

/-! ## WellFormed -/

/-- SKIP of the preamble is refused: that word is SYNC's (R63). -/
theorem test_wf_refuses_skip_of_preamble : (Instr.skip 0xA5#8).wf = false := by decide

theorem test_wf_accepts_other : (Instr.skip 0xA4#8).wf = true ∧ (Instr.cap1 0xA5#8).wf = true := by decide

/-! ## Decoding: words written out from R62 and R63, `v ss bbbbbbbb` -/

/-- Vectors E1 and E2: IDLE, whatever the cursor and the byte. -/
theorem test_decode_idle :
    decode ⟨false, 0b00000000000#11⟩ = .idle ∧ decode ⟨false, 0b01110100101#11⟩ = .idle := by decide

/-- Vector E3. -/
theorem test_decode_sync : decode ⟨false, 0b10010100101#11⟩ = .sync := by decide

/-- Vectors E4 and E5. -/
theorem test_decode_skip :
    decode ⟨false, 0b10010100100#11⟩ = .skip 0xA4#8 ∧ decode ⟨false, 0b10000000000#11⟩ = .skip 0x00#8 := by decide

/-- Vector E6, and a byte of no symmetry. -/
theorem test_decode_cap1 :
    decode ⟨false, 0b10110100101#11⟩ = .cap1 0xA5#8 ∧ decode ⟨false, 0b10100000010#11⟩ = .cap1 0x02#8 := by decide

/-- Vector E7, and a byte of no symmetry. -/
theorem test_decode_cap2 :
    decode ⟨false, 0b11010100101#11⟩ = .cap2 0xA5#8 ∧ decode ⟨false, 0b11000000001#11⟩ = .cap2 0x01#8 := by decide

/-- Vectors E8 and E9. -/
theorem test_decode_emit :
    decode ⟨false, 0b11110100101#11⟩ = .emit 0xA5#8 ∧ decode ⟨false, 0b11100000000#11⟩ = .emit 0x00#8 := by decide

/-- RESET is selected before the word is looked at (R64), here the words of SYNC and of EMIT. -/
theorem test_decode_reset :
    decode ⟨true, 0b10010100101#11⟩ = .reset ∧ decode ⟨true, 0b11100101100#11⟩ = .reset := by decide

/-- A bit above bit 10 is rejected by name: `W` has 11 bits (R62). -/
theorem test_table_word_too_wide : decodeTableWord 16 0x800 = none := by decide

/-- The encodings of the table, written out (R63). -/
theorem test_encode_words :
    encode .sync = ⟨false, 0x4A5#11⟩ ∧ encode (.skip 0xA4#8) = ⟨false, 0x4A4#11⟩ ∧
    encode (.cap1 0x02#8) = ⟨false, 0x502#11⟩ ∧ encode (.cap2 0x01#8) = ⟨false, 0x601#11⟩ ∧
    encode (.emit 0x2C#8) = ⟨false, 0x72C#11⟩ ∧ encode .idle = ⟨false, 0x000#11⟩ ∧ (encode .reset).rst = true := by
  decide

/-! ## Single steps: the vectors T of 95_test_vectors.md section 2.1 -/

/-- T4, T6: one away from the preamble, and one bit of it missing. -/
theorem test_skip_T4 : after (stateAt .await 0x12#8 0x34#8 [.ofByte 0xA6#8]) =
    some (.await, 0x12#8, 0x34#8, [], [0xA6#8]) := by decide

theorem test_skip_T6 : after (stateAt .await 0x12#8 0x34#8 [.ofByte 0x25#8]) =
    some (.await, 0x12#8, 0x34#8, [], [0x25#8]) := by decide

/-- T7. -/
theorem test_sync_T7 : after (stateAt .await 0x12#8 0x34#8 [.ofByte 0xA5#8]) =
    some (.have1, 0x12#8, 0x34#8, [], [0xA5#8]) := by decide

/-- T9, T10: the preamble is stored like any byte. -/
theorem test_cap1_T9 : after (stateAt .have1 0x12#8 0x34#8 [.ofByte 0x02#8]) =
    some (.have2, 0x02#8, 0x34#8, [], [0x02#8]) := by decide

theorem test_cap1_T10 : after (stateAt .have1 0x12#8 0x34#8 [.ofByte 0xA5#8]) =
    some (.have2, 0xA5#8, 0x34#8, [], [0xA5#8]) := by decide

/-- T13, T14 (and L8, whose false variant has HAVE1 here). -/
theorem test_cap2_T13 : after (stateAt .have2 0x12#8 0x34#8 [.ofByte 0x01#8]) =
    some (.have3, 0x12#8, 0x01#8, [], [0x01#8]) := by decide

theorem test_cap2_T14 : after (stateAt .have2 0x12#8 0x34#8 [.ofByte 0xA5#8]) =
    some (.have3, 0x12#8, 0xA5#8, [], [0xA5#8]) := by decide

/-- T15, T16. -/
theorem test_emit_T15 : after (stateAt .have3 0x12#8 0x34#8 [.ofByte 0x2C#8]) =
    some (.await, 0x12#8, 0x34#8, [⟨0x12#8, 0x34#8, 0x2C#8⟩], [0x2C#8]) := by decide

theorem test_emit_T16 : after (stateAt .have3 0x12#8 0x34#8 [.ofByte 0xA5#8]) =
    some (.await, 0x12#8, 0x34#8, [⟨0x12#8, 0x34#8, 0xA5#8⟩], [0xA5#8]) := by decide

/-- P2's record as the 24-bit item of R61. -/
theorem test_record_bits : (Record.mk 0x02#8 0x01#8 0x2C#8).bits = 0x02012C#24 := by decide

/-- T21, T22: no record and no SYNC while idle. -/
theorem test_idle_T21 : after (stateAt .have3 0x12#8 0x34#8 [⟨false, false, 0x00#8⟩]) =
    some (.have3, 0x12#8, 0x34#8, [], []) := by decide

theorem test_idle_T22 : after (stateAt .await 0x12#8 0x34#8 [⟨false, false, 0xA5#8⟩]) =
    some (.await, 0x12#8, 0x34#8, [], []) := by decide

/-- T24, T25: no record and no SYNC with `rst`, and the byte is lost; the pending registers are unspecified. -/
theorem test_reset_T24 :
    (nextOf (step (stateAt .have3 0x12#8 0x34#8 [⟨true, true, 0x2C#8⟩]))).map (fun t => (t.st, t.out, t.taken)) =
      some (.await, [], []) := by decide

theorem test_reset_T25 :
    (nextOf (step (stateAt .await 0x12#8 0x34#8 [⟨true, true, 0xA5#8⟩]))).map (fun t => (t.st, t.out, t.taken)) =
      some (.await, [], []) := by decide

/-- A table word placed at the next edge is run as the first operation after reset (E6). -/
theorem test_withFetchWord_cap1 :
    (nextOf (step (State.reset.withFetchWord 16 0x5A5))).map (fun t => (t.st, t.x1)) = some (.have2, 0xA5#8) := by
  decide

/-- V3, and V15, which refutes L7: from HAVE1 the record is not the frame's. -/
theorem test_feed_V3 (x1 x2 : Byte) : feed Config.preamble ⟨.await, x1, x2⟩ [0xA5#8, 0xA5#8, 0xA5#8, 0xA5#8] =
    (⟨.await, 0xA5#8, 0xA5#8⟩, [⟨0xA5#8, 0xA5#8, 0xA5#8⟩]) := rfl

theorem test_feed_V15 (x1 x2 : Byte) : feed Config.preamble ⟨.have1, x1, x2⟩ [0xA5#8, 0x01#8, 0x02#8, 0x03#8] =
    (⟨.await, 0xA5#8, 0x01#8⟩, [⟨0xA5#8, 0x01#8, 0x02#8⟩]) := rfl

/-! ## Witnesses: a state and operands that meet all the hypotheses of a statement together -/

theorem witness_ResetGoesToAwaitFromAnyState :
    (stateAt .have3 1#8 2#8 [⟨true, true, 0x2C#8⟩]).edges = ⟨true, true, 0x2C#8⟩ :: [] := rfl

theorem witness_IdleChangesNothing :
    (stateAt .have3 1#8 2#8 [⟨false, false, 0xA5#8⟩]).edges = ⟨false, false, 0xA5#8⟩ :: [] ∧
    ∀ e ∈ [PortSample.quiet, ⟨false, false, 0xA5#8⟩], e.rst = false ∧ e.inValid = false := ⟨rfl, by decide⟩

theorem witness_SkipDiscardsOtherByte :
    (stateAt .await 1#8 2#8 [.ofByte 0xA4#8]).st = .await ∧ (0xA4#8 : Byte) ≠ Config.preamble ∧
    (stateAt .await 1#8 2#8 [.ofByte 0xA4#8]).edges = .ofByte 0xA4#8 :: [] := ⟨rfl, by decide, rfl⟩

theorem witness_SyncOpensFrame :
    (stateAt .await 1#8 2#8 [.ofByte 0xA5#8]).st = .await ∧
    (stateAt .await 1#8 2#8 [.ofByte 0xA5#8]).edges = .ofByte 0xA5#8 :: [] := ⟨rfl, rfl⟩

theorem witness_CaptureOneStoresFirstField :
    (stateAt .have1 1#8 2#8 [.ofByte 0xA5#8]).st = .have1 ∧
    (stateAt .have1 1#8 2#8 [.ofByte 0xA5#8]).edges = .ofByte 0xA5#8 :: [] := ⟨rfl, rfl⟩

theorem witness_CaptureTwoStoresSecondField :
    (stateAt .have2 1#8 2#8 [.ofByte 0xFF#8]).st = .have2 ∧
    (stateAt .have2 1#8 2#8 [.ofByte 0xFF#8]).edges = .ofByte 0xFF#8 :: [] := ⟨rfl, rfl⟩

theorem witness_EmitDeliversRecord :
    (stateAt .have3 1#8 2#8 [.ofByte 0x00#8]).st = .have3 ∧
    (stateAt .have3 1#8 2#8 [.ofByte 0x00#8]).edges = .ofByte 0x00#8 :: [] := ⟨rfl, rfl⟩

theorem witness_StepRunsDecodedOperation :
    (stateAt .have1 1#8 2#8 [.ofByte 7#8]).edges = .ofByte 7#8 :: [] ∧ State.reset.edges = [] := ⟨rfl, rfl⟩

theorem witness_EventPriority :
    (PortSample.mk true true 0xA5#8).rst = true ∧
    (PortSample.quiet.rst = false ∧ PortSample.quiet.inValid = false) ∧
    ((PortSample.ofByte 0xA5#8).rst = false ∧ (PortSample.ofByte 0xA5#8).inValid = true) ∧
    (stateAt .have1 1#8 2#8 [.ofByte 7#8]).edges = .ofByte 7#8 :: [] := by decide

theorem witness_DecoderIsTheOpcodeTable :
    (decode ⟨false, 0x5A5#11⟩).operand = some 0xA5#8 ∧
    (⟨.SYNC, 0x4A5#11, 0x7FF#11, 2⟩ ∈ opcodeRows ∧ ⟨.SKIP, 0x400#11, 0x700#11, 3⟩ ∈ opcodeRows ∧
      (OpRow.mk .SYNC 0x4A5#11 0x7FF#11 2).hits 0x4A5#11 = true ∧
      (OpRow.mk .SKIP 0x400#11 0x700#11 3).hits 0x4A5#11 = true) ∧
    Cursor.have1 ≠ .await := by decide

theorem witness_EncodeDecodeRoundTrip : (Instr.skip 0xA4#8).wfAt Config.preamble = true := by decide

theorem witness_PlacedTableWordRunsNext : 0x7FF < 2048 ∧ 16 ≠ 0 ∧ 2048 ≤ 0x800 := by decide

theorem witness_PreambleComparisonIsFullEquality : Cursor.have3 ≠ .await := by decide

theorem witness_PreambleIsPayloadInsideFrame :
    (stateAt .have1 1#8 2#8 [.ofByte Config.preamble]).edges = .ofByte Config.preamble :: [] ∧
    (stateAt .have1 1#8 2#8 [.ofByte Config.preamble]).st = .have1 ∧
    (stateAt .have2 1#8 2#8 [.ofByte Config.preamble]).st = .have2 ∧
    (stateAt .have3 1#8 2#8 [.ofByte Config.preamble]).st = .have3 := ⟨rfl, rfl, rfl, rfl⟩

theorem witness_OperationsHoldWhatTheyDoNotName :
    exec (.cap2 7#8) (stateAt .have2 1#8 2#8 []) = .next ⟨.have3, 1#8, 7#8, [], [7#8], [], 0⟩ ∧
    Instr.op (.cap2 7#8) ≠ .CAP1 ∧ Instr.op (.cap2 7#8) ≠ .RESET ∧ Instr.op (.skip 7#8) = .SKIP ∧
    Instr.op .idle = .IDLE ∧ Instr.op (.cap2 7#8) ≠ .EMIT := ⟨rfl, by decide⟩

theorem witness_CursorFollowsTransitionGraph :
    step (stateAt .have3 1#8 2#8 [.ofByte 7#8]) = .next ⟨.await, 1#8, 2#8, [], [7#8], [⟨1#8, 2#8, 7#8⟩], 0⟩ := rfl

theorem witness_OutputPortsShowTheRecord :
    (stateAt .have3 1#8 2#8 []).st = .have3 ∧ (select .have2 (.ofByte 7#8)).op ≠ .EMIT ∧
    (acceptedBytes [.ofByte 7#8, .ofByte 0xA5#8, .quiet, .ofByte 8#8, .ofByte 9#8]).length ≤ 4 ∧
    runEdges (stateAt .have3 1#8 2#8 []) [.ofByte 7#8, .ofByte 0xA5#8, .quiet, .ofByte 8#8, .ofByte 9#8] =
      .next ⟨.have3, 8#8, 9#8, [], [7#8, 0xA5#8, 8#8, 9#8], [⟨1#8, 2#8, 7#8⟩], 0⟩ :=
  ⟨rfl, by decide, by decide, rfl⟩

theorem witness_StreamsOnlyGrow :
    step (stateAt .have1 1#8 2#8 [.ofByte 7#8]) = .next ⟨.have2, 7#8, 2#8, [], [7#8], [], 0⟩ ∧
    (nextEdge (stateAt .have1 1#8 2#8 [.ofByte 7#8])).rst = false ∧
    (nextEdge (stateAt .have1 1#8 2#8 [.ofByte 7#8])).inValid = true ∧
    step (stateAt .have1 1#8 2#8 []) = .next (stateAt .have1 1#8 2#8 []) ∧
    (nextEdge (stateAt .have1 1#8 2#8 [])).inValid = false := ⟨rfl, rfl, rfl, rfl, rfl⟩

theorem witness_ResetWinsOverSimultaneousByte :
    (stateAt .have3 1#8 2#8 [⟨true, true, 7#8⟩, .ofByte 0xA5#8]).edges = ⟨true, true, 7#8⟩ :: .ofByte 0xA5#8 :: [] ∧
    (stateAt .have3 1#8 2#8 [.ofByte 7#8]).edges = .ofByte 7#8 :: [] ∧
    (stateAt .have3 1#8 2#8 [.ofByte 7#8]).st = .have3 := ⟨rfl, rfl, rfl⟩

theorem witness_RunRefinesFeed :
    ∀ e ∈ [PortSample.ofByte 0xA5#8, .quiet, .ofByte 7#8], e.rst = false := by decide

theorem witness_SplitInvariance :
    feed Config.preamble ⟨.await, 1#8, 2#8⟩ [0xA5#8] = (⟨.have1, 1#8, 2#8⟩, []) ∧
    feed Config.preamble ⟨.have1, 1#8, 2#8⟩ [7#8] = (⟨.have2, 7#8, 2#8⟩, []) ∧
    runEdges (stateAt .await 1#8 2#8 []) [.ofByte 0xA5#8] = .next ⟨.have1, 1#8, 2#8, [], [0xA5#8], [], 0⟩ :=
  ⟨rfl, rfl, rfl⟩

theorem witness_RecordRateIsBounded : [0xA5#8, 1#8, 2#8, 3#8].length = 4 := rfl

theorem witness_InputWithoutPreamble :
    (0xA5#8 : Byte) ∉ [0xA4#8, 0x25#8] ∧ Cursor.have1 ≠ .await ∧
    [0xA4#8, 0x25#8].length + cursorIndex .have1 < 4 := by decide

theorem witness_HuntEndsAtFirstPreamble : (0xA5#8 : Byte) ∉ [0x00#8, 0xA6#8] := by decide

theorem witness_RunsDoNotDependOnTime :
    SameButUnwritten (stateAt .have2 1#8 2#8 []) { stateAt .have2 1#8 9#8 [] with draws := 4 } ∧
    (∀ e ∈ [PortSample.ofByte 7#8, .quiet], e.rst = false) ∧ (∀ e ∈ [PortSample.ofByte 7#8], e.rst = false) ∧
    acceptedBytes [.ofByte 7#8, .quiet] = acceptedBytes [.ofByte 7#8] :=
  ⟨⟨rfl, rfl, rfl, rfl, fun _ => rfl, fun h => by cases h⟩, by decide, by decide, by decide⟩

/-- A state in HAVE3 whose streams are those of a run: one skipped byte, and a frame in progress. -/
def midFrame : State := ⟨.have3, 1#8, 2#8, [.ofByte 3#8], [0x00#8, Config.preamble, 1#8, 2#8], [], 0⟩

/-- The state after its EMIT. -/
def frameDone : State :=
  ⟨.await, 1#8, 2#8, [], [0x00#8, Config.preamble, 1#8, 2#8, 3#8], [⟨1#8, 2#8, 3#8⟩], 0⟩

theorem witness_StepKeepsPendingValid : PendingValid midFrame ∧ step midFrame = .next frameDone :=
  ⟨⟨[0x00#8], rfl⟩, rfl⟩

theorem witness_StepKeepsOutMatchesIn :
    OutMatchesIn midFrame ∧ OutMatchesInAs [.skipped 0x00#8] midFrame ∧ step midFrame = .next frameDone ∧
    (nextEdge midFrame).rst = false := by
  have h : OutMatchesInAs [.skipped 0x00#8] midFrame := ⟨by simp [Piece.ok, Config.preamble], rfl, rfl⟩
  exact ⟨⟨_, h⟩, h, rfl, rfl⟩

/-- What the statement refutes: an EMIT that made no record would leave no reading that keeps the one before it and adds
one stretch that is not dropped. -/
theorem test_lost_record_has_no_reading (added : List Piece) (hl : added.length ≤ 1)
    (hd : ∀ c ∈ added, c.isDropped = false) : ¬ OutMatchesInAs ([.skipped 0x00#8] ++ added) { frameDone with out := [] } := by
  rintro ⟨-, ht, ho⟩
  match added, hl with
  | [], _ => simp [frameDone, pending, Piece.bytes] at ht
  | [.skipped b], _ => simp [frameDone, pending, Piece.bytes] at ht
  | [.framed r], _ => simp [Piece.record] at ho
  | [.dropped fs], _ => simp [Piece.isDropped] at hd

theorem witness_StepKeepsRateBounded : RateBounded midFrame ∧ step midFrame = .next frameDone :=
  ⟨by simp [RateBounded, midFrame, cursorIndex], rfl⟩

theorem witness_ResetValuesAreUnobservable :
    SameButUnwritten (stateAt .have2 1#8 2#8 [.ofByte 7#8]) { stateAt .have2 1#8 9#8 [.ofByte 7#8] with draws := 4 } ∧
    runEdges State.reset [.quiet] = .next State.reset ∧
    runEdges { State.reset with x1 := 1#8, x2 := 2#8, draws := 3 } [.quiet] =
      .next { State.reset with x1 := 1#8, x2 := 2#8, draws := 3 } :=
  ⟨⟨rfl, rfl, rfl, rfl, fun _ => rfl, fun h => by cases h⟩, rfl, rfl⟩

theorem witness_AlignmentIsKept :
    (∀ i ∈ [Sent.between 0x00#8, .frame ⟨0xA5#8, 0xA5#8, 0xA5#8⟩], i.quiet) ∧ State.reset.st = .await ∧
    5 ≤ (tagged [Sent.between 0x00#8, .frame ⟨0xA5#8, 0xA5#8, 0xA5#8⟩]).length :=
  ⟨by simp [Sent.quiet, Config.preamble], rfl, by decide⟩

/-- Both ends of the range of k, for a frame sent twice. -/
theorem witness_PeriodicStreamKeepsMisaligned : State.reset.st = .await ∧
    0 ≤ ([(Role.field2, Config.preamble), (Role.field3, 0x11#8)] ++
      tagged (List.replicate 2 (.frame ⟨0x22#8, Config.preamble, 0x11#8⟩))).length ∧
    10 ≤ ([(Role.field2, Config.preamble), (Role.field3, 0x11#8)] ++
      tagged (List.replicate 2 (.frame ⟨0x22#8, Config.preamble, 0x11#8⟩))).length :=
  ⟨rfl, by decide, by decide⟩

/-- Log 15: a byte inserted after a sender's preamble, written as `between`, leaves RXF in HAVE2 with one byte of that
frame consumed, and an RXF in AWAIT may have it next: R44 names neither case, and the model answers in step and
aligned. -/
theorem test_alignment_with_inserted_byte :
    alignment [(.preamble, 0xA5#8), (.between, 7#8), (.field1, 1#8), (.field2, 2#8), (.field3, 3#8)] 2 .have2 =
      .inStep ∧
    alignment [(.preamble, 0xA5#8), (.between, 7#8), (.field1, 1#8), (.field2, 2#8), (.field3, 3#8)] 1 .await =
      .aligned := by decide

end Sys2Proof.Tests
end

section
/-! SUPPORT. Facts about one step and one run that the statements on the state lean on: in which cursor states an
operation is selected (R34), that every step answers, and a run read one byte at a time. -/

namespace Sys2Proof

/-- The cursor states in which an operation can be selected: IDLE and RESET in every one, each byte step in one
(R22, R34). -/
def Instr.selectableIn (st : Cursor) : Instr → Prop
  | .reset | .idle => True
  | .sync | .skip _ => st = .await
  | .cap1 _ => st = .have1
  | .cap2 _ => st = .have2
  | .emit _ => st = .have3

theorem decodeByteStep_selectableIn (p : Byte) (st : Cursor) (b : Byte) :
    (decodeByteStep p st b).selectableIn st := by
  cases st with
  | await =>
    by_cases hb : b = p
    · rw [hb, decodeByteStep_await_preamble]; rfl
    · rw [decodeByteStep_await_other hb]; rfl
  | have1 | have2 | have3 => rfl

namespace Machine

theorem select_selectableIn (st : Cursor) (p : PortSample) : (select st p).selectableIn st := by
  cases hr : p.rst with
  | true => rw [select_rst hr]; trivial
  | false =>
    cases hv : p.inValid with
    | false => rw [select_idle hr hv]; trivial
    | true => rw [select_byte hr hv]; exact decodeByteStep_selectableIn _ _ _

theorem nextInstr_selectableIn (s : State) : (nextInstr s).selectableIn s.st :=
  select_selectableIn s.st (nextEdge s)

/-- The first edge of a run executes the operation it selects, and the run goes on from there (R64, R122). -/
theorem runEdges_cons_of_exec {s t : State} {e : PortSample} {es : List PortSample}
    (h : exec (select s.st e) (s.withEdges es) = .next t) : runEdges s (e :: es) = runEdges t es :=
  runEdges_cons h

theorem select_ofByte (st : Cursor) (b : Byte) :
    select st (.ofByte b) = decodeByteStep Config.preamble st b := select_byte rfl rfl

theorem runEdges_nil (s : State) : runEdges s [] = .next (s.withEdges []) := rfl

/-! A byte at the first edge of a run, for the four byte steps of a frame (R81, R90, R91, R100). -/

theorem runEdges_preamble {s : State} (es : List PortSample) (h : s.st = .await) :
    runEdges s (.ofByte Config.preamble :: es) =
      runEdges ((s.takeByte Config.preamble).setCursor .have1) es := by
  rw [runEdges_cons_of_exec (by rw [h, select_ofByte, decodeByteStep_await_preamble, exec_sync])]; rfl

theorem runEdges_field1 {s : State} (b : Byte) (es : List PortSample) (h : s.st = .have1) :
    runEdges s (.ofByte b :: es) = runEdges (((s.takeByte b).setX1 b).setCursor .have2) es := by
  rw [runEdges_cons_of_exec (by rw [h, select_ofByte, decodeByteStep_have1, exec_cap1])]; rfl

theorem runEdges_field2 {s : State} (b : Byte) (es : List PortSample) (h : s.st = .have2) :
    runEdges s (.ofByte b :: es) = runEdges (((s.takeByte b).setX2 b).setCursor .have3) es := by
  rw [runEdges_cons_of_exec (by rw [h, select_ofByte, decodeByteStep_have2, exec_cap2])]; rfl

theorem runEdges_field3 {s : State} (b : Byte) (es : List PortSample) (h : s.st = .have3) :
    runEdges s (.ofByte b :: es) =
      runEdges (((s.takeByte b).emit (s.recordWith b)).setCursor .await) es := by
  rw [runEdges_cons_of_exec (by rw [h, select_ofByte, decodeByteStep_have3, exec_emit])]; rfl

/-- What a frame that starts in AWAIT leaves: AWAIT again, the record delivered, and the frame's first two fields still
in the pending registers (R35, R70, R118). -/
def State.afterFrame (s : State) (r : Record) : State :=
  { s with
    st := .await
    x1 := r.code
    x2 := r.arg1
    taken := s.taken ++ frameOf Config.preamble r
    out := s.out ++ [r] }

/-- A whole frame at the head of a run from AWAIT (R118). -/
theorem runEdges_frame {s : State} (r : Record) (es : List PortSample) (h : s.st = .await) :
    runEdges s ((frameOf Config.preamble r).map .ofByte ++ es) = runEdges (s.afterFrame r) es := by
  simp only [frameOf, encodeFrame, List.map_cons, List.map_nil, List.cons_append, List.nil_append]
  rw [runEdges_preamble _ h, runEdges_field1 _ _ rfl, runEdges_field2 _ _ rfl, runEdges_field3 _ _ rfl]
  congr 1
  apply State.ext_fields <;> simp [State.afterFrame, State.recordWith, frameOf, encodeFrame]

end Machine

end Sys2Proof
end

section
/-! SUPPORT. The frame in progress and the bytes consumed last (R22, R31). -/

namespace Sys2Proof.Safety

open Sys2Proof.Machine

variable {s t : State}

theorem pending_await (h : s.st = .await) : pending s = [] := by simp [pending, h]

theorem pending_have1 (h : s.st = .have1) : pending s = [Config.preamble] := by simp [pending, h]

theorem pending_have2 (h : s.st = .have2) : pending s = [Config.preamble, s.x1] := by simp [pending, h]

theorem pending_have3 (h : s.st = .have3) : pending s = [Config.preamble, s.x1, s.x2] := by
  simp [pending, h]

/-- A step ends the frame in progress, or holds it, or adds to it the very byte that it consumes. -/
theorem step_pending (h : step s = .next t) :
    t.st = .await ∨ (pending t = pending s ∧ t.taken = s.taken) ∨
      ∃ b, pending t = pending s ++ [b] ∧ t.taken = s.taken ++ [b] := by
  obtain ⟨-, rfl⟩ | ⟨-, -, rfl⟩ | ⟨-, hst, rfl⟩ | ⟨b, -, hst, -, rfl⟩ | ⟨b, -, hst, rfl⟩ | ⟨b, -, hst, rfl⟩ |
    ⟨b, -, hst, rfl⟩ := step_cases h
  · exact .inl rfl
  · exact .inr (.inl ⟨rfl, rfl⟩)
  · exact .inr (.inr ⟨_, by rw [pending_await hst]; rfl, rfl⟩)
  · exact .inl hst
  · exact .inr (.inr ⟨b, by rw [pending_have1 hst]; rfl, rfl⟩)
  · exact .inr (.inr ⟨b, by rw [pending_have2 hst]; rfl, rfl⟩)
  · exact .inl rfl

theorem pendingValid_of_await (h : t.st = .await) : PendingValid t :=
  ⟨t.taken, by rw [pending_await h, List.append_nil]⟩

theorem PendingValid.append {b : Byte} (h : PendingValid s) (hp : pending t = pending s ++ [b])
    (ht : t.taken = s.taken ++ [b]) : PendingValid t := by
  obtain ⟨before, hs⟩ := h
  exact ⟨before, by rw [ht, hp, hs, List.append_assoc]⟩

/-- Settles O38: a step ends the frame in progress, holds it, or adds the byte consumed to both lists. -/
theorem stepKeepsPendingValid : Obligations.StepKeepsPendingValid := by
  intro s t hs h
  obtain hst | ⟨hp, ht⟩ | ⟨b, hp, ht⟩ := step_pending h
  · exact pendingValid_of_await hst
  · rwa [PendingValid, hp, ht]
  · exact hs.append hp ht

end Sys2Proof.Safety
end

section
/-! SUPPORT. Two states that differ in unwritten pending registers alone cannot be told apart (R31, D5). -/

namespace Sys2Proof.Safety

open Sys2Proof.Machine

namespace SameButUnwritten

variable {s t : State}

theorem advance (h : SameButUnwritten s t) : SameButUnwritten s.advance t.advance :=
  ⟨h.st, congrArg List.tail h.edges, h.taken, h.out, h.x1, h.x2⟩

theorem nextEdge_eq (h : SameButUnwritten s t) : nextEdge s = nextEdge t := by
  rw [nextEdge, nextEdge, h.edges]

theorem nextInstr_eq (h : SameButUnwritten s t) : nextInstr s = nextInstr t := by
  rw [nextInstr, nextInstr, h.st, h.nextEdge_eq]

/-- In HAVE3, where alone the pending registers are read, both are written (R31). -/
theorem recordWith_eq (h : SameButUnwritten s t) (hst : s.st = .have3) (b : Byte) :
    s.recordWith b = t.recordWith b := by
  rw [State.recordWith, State.recordWith, h.x1 (.inr hst), h.x2 hst]

theorem outRecord_eq (h : SameButUnwritten s t) (p : PortSample) : outRecord s p = outRecord t p := by
  by_cases hst : s.st = .have3
  · rw [outRecord, outRecord, ← h.st, h.recordWith_eq hst]
  · simp [outRecord, ← h.st, hst]

/-- An operation executed where it can be selected keeps the relation: each register it leaves meaningful was written
before, or is written now with the same byte. -/
theorem exec (h : SameButUnwritten s t) {i : Instr} (hi : i.selectableIn s.st) :
    ∃ s' t', Machine.exec i s = .next s' ∧ Machine.exec i t = .next t' ∧ SameButUnwritten s' t' := by
  have take (b : Byte) : s.taken ++ [b] = t.taken ++ [b] := by rw [h.taken]
  cases i <;> refine ⟨_, _, rfl, rfl, ?_⟩
  case reset => exact ⟨rfl, h.edges, h.taken, h.out, nofun, nofun⟩
  case idle => exact h
  case sync => exact ⟨rfl, h.edges, take _, h.out, nofun, nofun⟩
  case skip b => exact ⟨h.st, h.edges, take b, h.out, h.x1, h.x2⟩
  case cap1 b => exact ⟨rfl, h.edges, take b, h.out, fun _ => rfl, nofun⟩
  case cap2 b => exact ⟨rfl, h.edges, take b, h.out, fun _ => h.x1 (.inl hi), fun _ => rfl⟩
  case emit b =>
    refine ⟨rfl, h.edges, take b, ?_, nofun, nofun⟩
    show s.out ++ [s.recordWith b] = t.out ++ [t.recordWith b]
    rw [h.out, h.recordWith_eq hi]

theorem step (h : SameButUnwritten s t) :
    ∃ s' t', Machine.step s = .next s' ∧ Machine.step t = .next t' ∧ SameButUnwritten s' t' := by
  simpa only [Machine.step, h.nextInstr_eq] using h.advance.exec (nextInstr_selectableIn s)

theorem run (h : SameButUnwritten s t) (k : Nat) :
    ∃ s' t', Machine.run k s = .next s' ∧ Machine.run k t = .next t' ∧ SameButUnwritten s' t' := by
  induction k generalizing s t with
  | zero => exact ⟨s, t, rfl, rfl, h⟩
  | succ k ih =>
    obtain ⟨s₁, t₁, hs, ht, h₁⟩ := h.step
    rw [run_succ hs, run_succ ht]
    exact ih h₁

/-- Nothing is written in AWAIT: the pending registers and the draw counter may be any. -/
theorem of_await (hst : s.st = .await) (v₁ v₂ : Byte) (n : Nat) :
    SameButUnwritten s { s with x1 := v₁, x2 := v₂, draws := n } :=
  ⟨rfl, rfl, rfl, rfl, by simp [hst], by simp [hst]⟩

end SameButUnwritten

/-- Settles O42: the relation is kept by every step, so by every run, and it holds between the two start states. -/
theorem resetValuesAreUnobservable : Obligations.ResetValuesAreUnobservable := by
  constructor
  · intro s t h
    obtain ⟨s', t', hs, ht, h'⟩ := h.step
    exact ⟨s', t', hs, ht, h', by rw [h.outRecord_eq, h.nextEdge_eq]⟩
  · intro v₁ v₂ n es s t hs ht
    have hstart : SameButUnwritten (State.reset.withEdges es) _ := .of_await rfl v₁ v₂ n
    obtain ⟨s', t', hs', ht', h⟩ := hstart.run es.length
    obtain rfl : s' = s := Host.Outcome.next.inj (hs'.symm.trans hs)
    obtain rfl : t' = t := Host.Outcome.next.inj (ht'.symm.trans ht)
    exact ⟨h.out, h.st, h.taken⟩

end Sys2Proof.Safety
end

section
/-! SUPPORT. What an operation changes (R35), where a step leads (R34), and which states are reached (R32). -/

namespace Sys2Proof.Machine

/-- Settles O19: the decoder selects each operation in its own cursor state, and its meaning sets the next one. -/
theorem cursorFollowsTransitionGraph : Obligations.CursorFollowsTransitionGraph := by
  intro s t h
  have hsel := nextInstr_selectableIn s
  rw [step] at h
  cases hi : nextInstr s <;> rw [hi] at h hsel <;> cases h
  case reset | idle => rfl
  case skip => exact ⟨hsel, hsel⟩
  case sync | cap1 | cap2 | emit => exact ⟨hsel, rfl⟩

/-- The bytes that lead from reset to a cursor state with two given pending bytes: a frame that carries them, and then
the bytes of that frame again as far as the cursor says. -/
def bytesTo (st : Cursor) (v₁ v₂ : Byte) : List Byte :=
  frameOf Config.preamble ⟨v₁, v₂, 0#8⟩ ++ (frameOf Config.preamble ⟨v₁, v₂, 0#8⟩).take (cursorIndex st)

/-- Settles O25, by the run over `bytesTo`. -/
theorem everyRegisterValueIsReachable : Obligations.EveryRegisterValueIsReachable := by
  intro st v₁ v₂
  refine ⟨(bytesTo st v₁ v₂).map .ofByte, ?_⟩
  rw [bytesTo, List.map_append, runEdges_frame _ _ rfl]
  cases st with
  | await => exact ⟨_, runEdges_nil _, rfl, rfl, rfl⟩
  | have1 => exact ⟨_, runEdges_preamble [] rfl, rfl, rfl, rfl⟩
  | have2 => exact ⟨_, (runEdges_preamble _ rfl).trans (runEdges_field1 _ [] rfl), rfl, rfl, rfl⟩
  | have3 =>
    exact ⟨_, ((runEdges_preamble _ rfl).trans (runEdges_field1 _ _ rfl)).trans (runEdges_field2 _ [] rfl),
      rfl, rfl, rfl⟩

/-- Settles O18: an operation's meaning is a chain of updates, and the laws of the state say what each one holds. -/
theorem operationsHoldWhatTheyDoNotName : Obligations.OperationsHoldWhatTheyDoNotName := by
  intro i s t h
  cases i <;> cases h
  case idle => simp
  case reset | sync | skip | cap1 | cap2 | emit => simp [Instr.op]

end Sys2Proof.Machine
end

section
/-! SUPPORT. What a step does to the two streams (R40, R42, R49). -/

namespace Sys2Proof

theorem PortSample.accepted_byte {p : PortSample} (hr : p.rst = false) (hv : p.inValid = true) :
    p.accepted = some p.inData := by simp [PortSample.accepted, hr, hv]

theorem PortSample.accepted_eq_some_iff {p : PortSample} {b : Byte} :
    p.accepted = some b ↔ p.rst = false ∧ p.inValid = true ∧ p.inData = b := by
  simp [PortSample.accepted, and_assoc]

namespace Machine

variable {s t : State} {p : PortSample}

theorem outRecord_of_accepted {b : Byte} (h : p.accepted = some b) (hst : s.st = .have3) :
    outRecord s p = some (s.recordWith b) := by
  obtain ⟨hr, hv, rfl⟩ := PortSample.accepted_eq_some_iff.mp h
  simp [outRecord, hr, hv, hst]

theorem outRecord_of_not_accepted (h : p.accepted = none) : outRecord s p = none := by
  simp_all [outRecord, PortSample.accepted]

theorem outRecord_of_ne_have3 (hst : s.st ≠ .have3) : outRecord s p = none := by simp [outRecord, hst]

/-- A step consumes the byte that its edge presents, if RXF takes one there, and no other (R40, R49). -/
theorem step_taken (h : step s = .next t) : t.taken = s.taken ++ (nextEdge s).accepted.toList := by
  obtain ⟨hr, rfl⟩ | ⟨-, hv, rfl⟩ | ⟨hb, -, rfl⟩ | ⟨b, hb, -, -, rfl⟩ | ⟨b, hb, -, rfl⟩ | ⟨b, hb, -, rfl⟩ |
    ⟨b, hb, -, rfl⟩ := step_cases h
  · simp [PortSample.accepted_rst hr]
  · simp [PortSample.accepted_idle hv]
  all_goals simp [hb]

/-- A step appends to `OUT` the record of its cycle, if there is one, and no other (R42, R101). -/
theorem step_out (h : step s = .next t) : t.out = s.out ++ (outRecord s (nextEdge s)).toList := by
  obtain ⟨hr, rfl⟩ | ⟨-, hv, rfl⟩ | ⟨-, hst, rfl⟩ | ⟨b, -, hst, -, rfl⟩ | ⟨b, -, hst, rfl⟩ | ⟨b, -, hst, rfl⟩ |
    ⟨b, hb, hst, rfl⟩ := step_cases h
  · simp [outRecord_of_not_accepted (PortSample.accepted_rst hr)]
  · simp [outRecord_of_not_accepted (PortSample.accepted_idle hv)]
  iterate 4 · simp [outRecord_of_ne_have3, hst]
  · simp [outRecord_of_accepted hb hst]

/-- Settles O21, from what a step adds to each stream. -/
theorem streamsOnlyGrow : Obligations.StreamsOnlyGrow := by
  intro s t h
  refine ⟨fun b hr hv hb => ?_, fun hno => ?_, _, ?_, step_out h⟩
  · rw [step_taken h, PortSample.accepted_byte hr hv, hb, Option.toList_some]
  · have hnone : (nextEdge s).accepted = none := hno.elim PortSample.accepted_rst PortSample.accepted_idle
    rw [step_taken h, step_out h, outRecord_of_not_accepted hnone, hnone]
    simp
  · exact Option.length_toList_le

end Machine

end Sys2Proof
end

section
/-! SUPPORT. The reading of `IN` that a step extends (R42, R45, R52, R103, R163). -/

namespace Sys2Proof.Safety

open Sys2Proof.Machine

variable {s t : State}

/-- A frame in progress is the preamble and at most two fields (R22). -/
theorem pending_of_ne_await (h : s.st ≠ .await) :
    ∃ fields : List Byte, fields.length ≤ 2 ∧ pending s = Config.preamble :: fields := by
  cases hst : s.st with
  | await => exact absurd hst h
  | have1 => exact ⟨[], by simp, pending_have1 hst⟩
  | have2 => exact ⟨[s.x1], by simp, pending_have2 hst⟩
  | have3 => exact ⟨[s.x1, s.x2], by simp, pending_have3 hst⟩

/-- From `s` to `t` the frame in progress and the bytes consumed between them are read as the stretches `added` and then
the frame in progress at `t`, and the records made are those of the stretches. -/
structure Extends (added : List Piece) (s t : State) : Prop where
  ok : ∀ c ∈ added, c.ok
  taken : ∃ read, t.taken = s.taken ++ read ∧ pending s ++ read = added.flatMap Piece.bytes ++ pending t
  out : t.out = s.out ++ added.filterMap Piece.record

/-- A reading goes on with the stretches that extend it. -/
theorem OutMatchesInAs.extend {pieces added : List Piece} (h : OutMatchesInAs pieces s) (he : Extends added s t) :
    OutMatchesInAs (pieces ++ added) t := by
  obtain ⟨hok, htaken, hout⟩ := h
  obtain ⟨read, hread, hpending⟩ := he.taken
  refine ⟨fun c hc => (List.mem_append.mp hc).elim (hok c) (he.ok c), ?_, ?_⟩
  · rw [hread, htaken, List.append_assoc, hpending, List.flatMap_append, List.append_assoc]
  · rw [he.out, hout, List.filterMap_append]

namespace Extends

/-- With no stretch completed, the frame in progress takes up what is consumed. -/
theorem hold {read : List Byte} (hp : pending t = pending s ++ read) (ht : t.taken = s.taken ++ read)
    (ho : t.out = s.out) : Extends [] s t :=
  ⟨by simp, ⟨read, ht, hp.symm⟩, by simp [ho]⟩

/-- A stretch is complete when nothing is left of the frame in progress. -/
theorem complete {c : Piece} {read : List Byte} (hok : c.ok) (hc : c.bytes = pending s ++ read) (hst : t.st = .await)
    (ht : t.taken = s.taken ++ read) (ho : t.out = s.out ++ c.record.toList) : Extends [c] s t := by
  refine ⟨by simpa using hok, ⟨read, ht, ?_⟩, ?_⟩
  · simp [hc, pending_await hst]
  · rw [ho]; cases hr : c.record <;> simp [hr]

/-- RESET drops the frame in progress, if there is one (R163). -/
theorem reset (hst : t.st = .await) (ht : t.taken = s.taken) (ho : t.out = s.out) :
    ∃ added : List Piece, added.length ≤ 1 ∧ Extends added s t := by
  by_cases hs : s.st = .await
  · exact ⟨[], by simp, hold (read := []) (by rw [pending_await hs, pending_await hst]; rfl) (by simp [ht]) ho⟩
  · obtain ⟨fields, hlen, hp⟩ := pending_of_ne_await hs
    exact ⟨[.dropped fields], by simp,
      complete (read := []) hlen (by simp [hp, Piece.bytes]) hst (by simp [ht]) (by simp [ho, Piece.record])⟩

end Extends

/-- Every step extends the reading by at most one stretch, and by a dropped frame at a RESET edge alone. -/
theorem step_extends (h : step s = .next t) :
    ∃ added : List Piece, added.length ≤ 1 ∧
      ((nextEdge s).rst = false → ∀ c ∈ added, c.isDropped = false) ∧ Extends added s t := by
  obtain ⟨hr, rfl⟩ | ⟨-, -, rfl⟩ | ⟨-, hst, rfl⟩ | ⟨b, -, hst, hb, rfl⟩ | ⟨b, -, hst, rfl⟩ | ⟨b, -, hst, rfl⟩ |
    ⟨b, -, hst, rfl⟩ := step_cases h
  · obtain ⟨added, hlen, he⟩ := Extends.reset (s := s) (t := s.advance.disturb.setCursor .await) rfl rfl rfl
    exact ⟨added, hlen, by simp [hr], he⟩
  · exact ⟨[], by simp, by simp, .hold (read := []) (List.append_nil _).symm (List.append_nil _).symm rfl⟩
  · exact ⟨[], by simp, by simp, .hold (by rw [pending_await hst]; rfl) rfl rfl⟩
  · exact ⟨[.skipped b], by simp, by simp [Piece.isDropped],
      .complete hb (by rw [pending_await hst]; rfl) hst rfl (List.append_nil _).symm⟩
  · exact ⟨[], by simp, by simp, .hold (by rw [pending_have1 hst]; rfl) rfl rfl⟩
  · exact ⟨[], by simp, by simp, .hold (by rw [pending_have2 hst]; rfl) rfl rfl⟩
  · exact ⟨[.framed (s.recordWith b)], by simp, by simp [Piece.isDropped],
      .complete trivial (by rw [pending_have3 hst]; rfl) rfl rfl rfl⟩

/-- Settles O39: the reading before the step, and the stretch by which the step extends it. -/
theorem stepKeepsOutMatchesIn : Obligations.StepKeepsOutMatchesIn := by
  constructor
  · rintro s t ⟨pieces, hs⟩ h
    obtain ⟨added, -, -, he⟩ := step_extends h
    exact ⟨_, hs.extend he⟩
  · intro pieces s t hs h
    obtain ⟨added, hlen, hdropped, he⟩ := step_extends h
    exact ⟨added, hlen, hdropped, hs.extend he⟩

end Sys2Proof.Safety
end

section
/-! SUPPORT. A run over a sender's stream, point by point (R44, R46, R48). -/

namespace Sys2Proof.Machine

/-- No operation looks at the coming edges (log 1). -/
theorem exec_withEdges {i : Instr} {s t : State} (h : exec i s = .next t) (es : List PortSample) :
    exec i (s.withEdges es) = .next (t.withEdges es) := by
  cases i <;> cases h <;> rfl

/-- The step at a byte's edge, from the operation that the byte selects. -/
theorem step_byteEdge {s t : State} {b : Byte} (h : exec (select s.st (.ofByte b)) s = .next t)
    (es : List PortSample) : step (s.withEdges (.ofByte b :: es)) = .next (t.withEdges es) :=
  exec_withEdges h es

variable {s : State}

/-! What a byte does in each cursor state (R80, R81, R90, R91, R100). -/

theorem exec_select_preamble (h : s.st = .await) :
    exec (select s.st (.ofByte Config.preamble)) s = .next ((s.takeByte Config.preamble).setCursor .have1) := by
  rw [h, select_ofByte, decodeByteStep_await_preamble, exec_sync]

theorem exec_select_other {b : Byte} (h : s.st = .await) (hb : b ≠ Config.preamble) :
    exec (select s.st (.ofByte b)) s = .next (s.takeByte b) := by
  rw [h, select_ofByte, decodeByteStep_await_other hb, exec_skip]

theorem exec_select_have1 (b : Byte) (h : s.st = .have1) :
    exec (select s.st (.ofByte b)) s = .next (((s.takeByte b).setX1 b).setCursor .have2) := by
  rw [h, select_ofByte, decodeByteStep_have1, exec_cap1]

theorem exec_select_have2 (b : Byte) (h : s.st = .have2) :
    exec (select s.st (.ofByte b)) s = .next (((s.takeByte b).setX2 b).setCursor .have3) := by
  rw [h, select_ofByte, decodeByteStep_have2, exec_cap2]

theorem exec_select_have3 (b : Byte) (h : s.st = .have3) :
    exec (select s.st (.ofByte b)) s = .next (((s.takeByte b).emit (s.recordWith b)).setCursor .await) := by
  rw [h, select_ofByte, decodeByteStep_have3, exec_emit]

/-- The four byte steps of a frame that starts in AWAIT, written as one update (R118). -/
theorem State.afterFrame_eq_four_steps (s : State) (r : Record) :
    s.afterFrame r =
      let s₁ := (s.takeByte Config.preamble).setCursor .have1
      let s₂ := ((s₁.takeByte r.code).setX1 r.code).setCursor .have2
      let s₃ := ((s₂.takeByte r.arg1).setX2 r.arg1).setCursor .have3
      ((s₃.takeByte r.arg2).emit (s₃.recordWith r.arg2)).setCursor .await :=
  State.ext_fields rfl rfl rfl rfl (by simp [State.afterFrame, frameOf, encodeFrame]) rfl rfl

end Sys2Proof.Machine

namespace Sys2Proof.Safety

open Sys2Proof.Machine

/-- With the bytes `past` of a sender's stream consumed and `coming` yet to come, RXF goes from `s` to `u` over the
bytes to come, and its alignment satisfies `A` at every point on the way, both ends among them. -/
inductive Follows (A : Alignment → Prop) : (past coming : List (Role × Byte)) → (s u : State) → Prop
  | stop {past : List (Role × Byte)} {s : State} (here : A (alignment past past.length s.st)) : Follows A past [] s s
  | byte {past coming : List (Role × Byte)} {c : Role × Byte} {s t u : State}
      (here : A (alignment (past ++ c :: coming) past.length s.st))
      (exec : exec (select s.st (.ofByte c.2)) s = .next t) (rest : Follows A (past ++ [c]) coming t u) :
      Follows A past (c :: coming) s u

namespace Follows

variable {A : Alignment → Prop} {past coming : List (Role × Byte)} {s u : State}

theorem at_every_point (h : Follows A past coming s u) :
    ∀ k ≤ coming.length, ∃ t, run k (s.withEdges (edgesOf coming)) = .next t ∧
      A (alignment (past ++ coming) (past.length + k) t.st) := by
  induction h with
  | @stop past s here =>
    intro k hk
    obtain rfl : k = 0 := Nat.le_zero.mp hk
    exact ⟨_, rfl, by simpa using here⟩
  | @byte past coming c s t u here exec _ ih =>
    rintro (_ | k) hk
    · exact ⟨_, rfl, here⟩
    · obtain ⟨v, hrun, hA⟩ := ih k (Nat.le_of_succ_le_succ hk)
      refine ⟨v, (run_succ (step_byteEdge exec (edgesOf coming))).trans hrun, ?_⟩
      have hpoint : (past ++ [c]).length + k = past.length + (k + 1) := by
        rw [List.length_append, List.length_singleton, Nat.add_assoc, Nat.add_comm 1]
      rwa [List.append_assoc, List.singleton_append, hpoint] at hA

theorem at_every_point_from_start (h : Follows A [] coming s u) :
    ∀ k ≤ coming.length, ∃ t, run k (s.withEdges (edgesOf coming)) = .next t ∧ A (alignment coming k t.st) := by
  simpa using h.at_every_point

theorem runEdges_eq (h : Follows A past coming s u) :
    runEdges s (edgesOf coming) = .next (u.withEdges []) := by
  induction h with
  | stop => exact runEdges_nil _
  | byte _ exec _ ih => exact (runEdges_cons (step_byteEdge exec _)).trans ih

end Follows

/-- In AWAIT the alignment is read off the byte to come (R44). -/
@[simp] theorem alignment_await (past coming : List (Role × Byte)) (c : Role × Byte) :
    alignment (past ++ c :: coming) past.length .await =
      if c.1 = .preamble ∨ c.1 = .between then .aligned else .misaligned := by
  obtain ⟨role, b⟩ := c
  cases role <;> simp [alignment, roleAt]

/-- At the end of the stream an RXF in AWAIT counts as aligned (log 15). -/
@[simp] theorem alignment_await_end (past : List (Role × Byte)) :
    alignment past past.length .await = .aligned := by simp [alignment, roleAt]

/-- In HAVEj the alignment is read off the byte consumed j bytes ago (R44). -/
theorem alignment_inside (st : Cursor) (past more : List (Role × Byte)) (c : Role × Byte) (h : st ≠ .await) :
    alignment (past ++ c :: more) (past.length + cursorIndex st) st =
      if c.1 = .preamble then .inStep else .misaligned := by
  have hstart : startRole (past ++ c :: more) (past.length + cursorIndex st) st = some c.1 := by
    simp [startRole, roleAt]
  cases st with
  | await => exact absurd rfl h
  | have1 | have2 | have3 => simp only [alignment, hstart, Option.some.injEq]

@[simp] theorem alignment_have1 (past more : List (Role × Byte)) (c : Role × Byte) :
    alignment (past ++ c :: more) (past.length + 1) .have1 =
      if c.1 = .preamble then .inStep else .misaligned := alignment_inside .have1 past more c nofun

@[simp] theorem alignment_have2 (past more : List (Role × Byte)) (c : Role × Byte) :
    alignment (past ++ c :: more) (past.length + 2) .have2 =
      if c.1 = .preamble then .inStep else .misaligned := alignment_inside .have2 past more c nofun

@[simp] theorem alignment_have3 (past more : List (Role × Byte)) (c : Role × Byte) :
    alignment (past ++ c :: more) (past.length + 3) .have3 =
      if c.1 = .preamble then .inStep else .misaligned := alignment_inside .have3 past more c nofun

namespace Follows

variable {past coming : List (Role × Byte)} {s u : State}

/-! Over whole frames and quiet bytes (R46). -/

theorem between {b : Byte} (hst : s.st = .await) (hb : b ≠ Config.preamble)
    (rest : Follows (· ≠ .misaligned) (past ++ (Sent.between b).tagged) coming (s.takeByte b) u) :
    Follows (· ≠ .misaligned) past ((Sent.between b).tagged ++ coming) s u :=
  .byte (by simp [hst]) (exec_select_other hst hb) rest

/-- RXF, aligned before a whole frame, is in step inside it. -/
theorem frame {r : Record} (hst : s.st = .await)
    (rest : Follows (· ≠ .misaligned) (past ++ (Sent.frame r).tagged) coming (s.afterFrame r) u) :
    Follows (· ≠ .misaligned) past ((Sent.frame r).tagged ++ coming) s u := by
  refine .byte ?_ (exec_select_preamble hst) <| .byte ?_ (exec_select_have1 r.code rfl) <|
    .byte ?_ (exec_select_have2 r.arg1 rfl) <| .byte ?_ (exec_select_have3 r.arg2 rfl) ?_
  case refine_1 | refine_2 | refine_3 | refine_4 => simp [hst]
  case refine_5 => simpa [Sent.tagged, State.afterFrame_eq_four_steps] using rest

theorem of_quiet_items {items : List Sent} (hquiet : ∀ i ∈ items, i.quiet) (hst : s.st = .await) :
    ∃ u, Follows (· ≠ .misaligned) past (tagged items) s u ∧ u.st = .await ∧
      u.out = s.out ++ items.filterMap Sent.record := by
  induction items generalizing past s with
  | nil => exact ⟨s, .stop (by simp [hst]), hst, (List.append_nil _).symm⟩
  | cons i items ih =>
    obtain ⟨hi, hitems⟩ := List.forall_mem_cons.mp hquiet
    cases i with
    | frame r =>
      obtain ⟨u, hu, hust, huout⟩ := ih (s := s.afterFrame r) hitems rfl
      exact ⟨u, frame hst hu, hust, by simp [huout, State.afterFrame, Sent.record]⟩
    | between b =>
      obtain ⟨u, hu, hust, huout⟩ := ih (s := s.takeByte b) hitems hst
      exact ⟨u, between hst hi hu, hust, huout⟩

end Follows

/-- Settles O43: RXF follows the stream without being misaligned, at every point and to its end. -/
theorem alignmentIsKept : Obligations.AlignmentIsKept := by
  intro items s hquiet hst
  obtain ⟨u, hu, hust, huout⟩ := Follows.of_quiet_items (past := []) hquiet hst
  exact ⟨hu.at_every_point_from_start, _, hu.runEdges_eq, hust, huout⟩

/-! ## A frame `(f, preamble, g)` sent again and again (R48) -/

/-- Its first two bytes. -/
def frameHead (f : Byte) : List (Role × Byte) := [(.preamble, Config.preamble), (.field1, f)]

/-- Its last two bytes, the preamble's value among them. -/
def frameTail (g : Byte) : List (Role × Byte) := [(.field2, Config.preamble), (.field3, g)]

/-- What the last two bytes leave of an RXF that meets them in AWAIT: a frame opened on a payload byte. -/
def falseStart (g : Byte) (s : State) : State :=
  ((((s.takeByte Config.preamble).setCursor .have1).takeByte g).setX1 g).setCursor .have2

/-- What the first two bytes then leave: the wrong record is made, and RXF is in AWAIT inside the sender's frame. -/
def falseEnd (f : Byte) (s : State) : State :=
  let s₁ := ((s.takeByte Config.preamble).setX2 Config.preamble).setCursor .have3
  ((s₁.takeByte f).emit (s₁.recordWith f)).setCursor .await

namespace Follows

variable {past coming : List (Role × Byte)} {f g : Byte} {s u : State}

theorem frameTail_from_await (hst : s.st = .await)
    (rest : Follows (· = .misaligned) (past ++ frameTail g) coming (falseStart g s) u) :
    Follows (· = .misaligned) past (frameTail g ++ coming) s u := by
  refine .byte ?_ (exec_select_preamble hst) <| .byte ?_ (exec_select_have1 g rfl) ?_
  case refine_1 | refine_2 => simp [hst]
  case refine_3 => simpa [frameTail, falseStart] using rest

theorem frameHead_from_have2 (hst : s.st = .have2)
    (rest : Follows (· = .misaligned) (past ++ frameTail g ++ frameHead f) coming (falseEnd f s) u) :
    Follows (· = .misaligned) (past ++ frameTail g) (frameHead f ++ coming) s u := by
  refine .byte ?_ (exec_select_have2 _ hst) <| .byte ?_ (exec_select_have3 f rfl) ?_
  case refine_1 | refine_2 => simp [hst, frameTail]
  case refine_3 => simpa [frameHead, falseEnd] using rest

theorem of_repeated_frame (n : Nat) (hst : s.st = .have2) (hx : s.x1 = g) :
    ∃ u, Follows (· = .misaligned) (past ++ frameTail g)
        (tagged (List.replicate n (.frame ⟨f, Config.preamble, g⟩))) s u ∧
      u.out = s.out ++ List.replicate n ⟨g, Config.preamble, f⟩ ∧ u.st = .have2 ∧ u.x1 = g := by
  induction n generalizing past s with
  | zero => exact ⟨s, .stop (by simp [hst, frameTail]), (List.append_nil _).symm, hst, hx⟩
  | succ n ih =>
    obtain ⟨u, hu, huout, hust, hux⟩ := ih (s := falseStart g (falseEnd f s)) rfl rfl
    refine ⟨u, frameHead_from_have2 hst (frameTail_from_await rfl hu), ?_, hust, hux⟩
    simp [huout, falseStart, falseEnd, State.recordWith, hx, List.replicate_succ]

end Follows

/-- Settles O44: RXF follows the stream misaligned, first over the half frame it starts in and then over the whole
ones. -/
theorem periodicStreamKeepsMisaligned : Obligations.PeriodicStreamKeepsMisaligned := by
  rintro f g n s stream hst rfl
  obtain ⟨u, hu, huout, hust, hux⟩ :=
    Follows.of_repeated_frame (past := []) (f := f) (g := g) (s := falseStart g s) n rfl rfl
  have h := Follows.frameTail_from_await hst hu
  exact ⟨h.at_every_point_from_start, _, h.runEdges_eq, huout, hust, hux⟩

end Sys2Proof.Safety
end

section
/-! SUPPORT. Decoding undoes encoding and encoding undoes decoding, event by event (R62, R63, R65). -/

namespace Sys2Proof

/-- An event is a RESET event, or a word of three fields with `in_valid` 0 or 1 (R62, R64). -/
theorem EventWord.eq_reset_or_idle_or_byteStep (e : EventWord) :
    (∃ w, e = ⟨true, w⟩) ∨ (∃ st b, e = ⟨false, decodeWord false st b⟩) ∨
      ∃ st b, e = ⟨false, decodeWord true st b⟩ := by
  obtain ⟨rst, w⟩ := e
  cases rst with
  | true => exact .inl ⟨w, rfl⟩
  | false =>
    have hw := (decodeWord_fields w).symm
    cases hv : wValid w with
    | false => rw [hv] at hw; exact .inr (.inl ⟨_, _, congrArg _ hw⟩)
    | true => rw [hv] at hw; exact .inr (.inr ⟨_, _, congrArg _ hw⟩)

/-- Masking a decode word masks each of its fields. -/
theorem decodeWord_and (v mv : Bool) (st : Cursor) (mc : BitVec 2) (b mb : Byte) :
    decodeWord v st b &&& (BitVec.ofBool mv ++ (mc ++ mb)) =
      BitVec.ofBool (v && mv) ++ ((st.toBits &&& mc) ++ (b &&& mb)) := by
  rw [decodeWord, BitVec.and_append, BitVec.and_append, BitVec.ofBool_and_ofBool]

/-- IDLE's free bits are all those of its word but `in_valid` (log 8). -/
theorem and_decodeWord_idle (st : Cursor) (b : Byte) :
    0x3FF#11 &&& decodeWord false st b = decodeWord false st b := by
  have h := decodeWord_and false false st (BitVec.allOnes 2) b (BitVec.allOnes 8)
  rw [BitVec.and_allOnes, BitVec.and_allOnes] at h
  exact (BitVec.and_comm _ _).trans h

variable {p b : Byte}

@[simp] theorem decodeAt_decodeWord_idle (p : Byte) (st : Cursor) (b : Byte) :
    decodeAt p ⟨false, decodeWord false st b⟩ = .idle := decodeAt_idle (wValid_decodeWord _ _ _)

theorem Instr.wfAt_skip : (Instr.skip b).wfAt p = true ↔ b ≠ p := by simp [Instr.wfAt]

theorem decodeAt_encodeAt (dc : BitVec 11) {i : Instr} (h : i.wfAt p = true) :
    decodeAt p (encodeAt p dc i) = i := by
  cases i with
  | reset => rfl
  | idle => exact decodeAt_idle (by simp [wValid])
  | sync => exact (decodeAt_byteStep p .await p).trans (decodeByteStep_await_preamble p)
  | skip b => exact (decodeAt_byteStep p .await b).trans (decodeByteStep_await_other (Instr.wfAt_skip.mp h))
  | cap1 b => exact decodeAt_byteStep p .have1 b
  | cap2 b => exact decodeAt_byteStep p .have2 b
  | emit b => exact decodeAt_byteStep p .have3 b

/-- A byte step is well formed, and its encoding is the word of its cursor and byte: the operation alone tells both,
since SYNC's byte is the preamble (R63). -/
theorem decodeByteStep_wfAt_and_encodeAt (p : Byte) (dc : BitVec 11) (st : Cursor) (b : Byte) :
    (decodeByteStep p st b).wfAt p = true ∧
      encodeAt p dc (decodeByteStep p st b) = ⟨false, decodeWord true st b⟩ := by
  cases st with
  | await =>
    by_cases hb : b = p
    · subst hb; rw [decodeByteStep_await_preamble]; exact ⟨rfl, rfl⟩
    · rw [decodeByteStep_await_other hb]; exact ⟨Instr.wfAt_skip.mpr hb, rfl⟩
  | have1 | have2 | have3 => exact ⟨rfl, rfl⟩

theorem decodeAt_wfAt_and_encodeAt (p : Byte) (e : EventWord) :
    (decodeAt p e).wfAt p = true ∧ encodeAt p e.w (decodeAt p e) = e := by
  obtain ⟨w, rfl⟩ | ⟨st, b, rfl⟩ | ⟨st, b, rfl⟩ := e.eq_reset_or_idle_or_byteStep
  · exact ⟨rfl, rfl⟩
  · rw [decodeAt_decodeWord_idle]
    exact ⟨rfl, congrArg _ (and_decodeWord_idle st b)⟩
  · rw [decodeAt_byteStep]
    exact decodeByteStep_wfAt_and_encodeAt p _ st b

/-- Settles O13: operation by operation in the one direction, event by event in the other. -/
theorem encodeDecodeRoundTrip : Obligations.EncodeDecodeRoundTrip :=
  ⟨fun _ _ dc h => decodeAt_encodeAt dc h, decodeAt_wfAt_and_encodeAt⟩

end Sys2Proof
end

section
/-! SUPPORT. The rows of the opcode table that a decode word selects (R63, R71). -/

namespace Sys2Proof

/-- IDLE's row: `in_valid` 0. -/
def idleRow : OpRow := ⟨.IDLE, 0x000#11, 0x400#11, 1⟩

/-- SYNC's row: the whole word. -/
def syncRow : OpRow := ⟨.SYNC, decodeWord true .await Config.preamble, 0x7FF#11, 2⟩

/-- The row of a cursor state whose byte is free: SKIP, CAP1, CAP2 or EMIT. -/
def byteStepRow (st : Cursor) : OpRow :=
  match st with
  | .await => ⟨.SKIP, decodeWord true .await 0#8, 0x700#11, 3⟩
  | .have1 => ⟨.CAP1, decodeWord true .have1 0#8, 0x700#11, 4⟩
  | .have2 => ⟨.CAP2, decodeWord true .have2 0#8, 0x700#11, 5⟩
  | .have3 => ⟨.EMIT, decodeWord true .have3 0#8, 0x700#11, 6⟩

theorem opcodeRows_eq : opcodeRows =
    [idleRow, syncRow, byteStepRow .await, byteStepRow .have1, byteStepRow .have2, byteStepRow .have3] := by
  decide

variable (v : Bool) (st : Cursor) (b : Byte)

theorem decodeWord_inj {v' : Bool} {st' : Cursor} {b' : Byte} :
    decodeWord v st b = decodeWord v' st' b' ↔ v = v' ∧ st = st' ∧ b = b' := by
  constructor
  · intro h
    exact ⟨by simpa using congrArg wValid h, by simpa using congrArg wCursor h, by simpa using congrArg wByte h⟩
  · rintro ⟨rfl, rfl, rfl⟩
    rfl

/-! What each mask of the table keeps of a word. -/

theorem decodeWord_and_valid : decodeWord v st b &&& 0x400#11 = decodeWord v .await 0#8 := by
  have h := decodeWord_and v true st 0#2 b 0#8
  rwa [Bool.and_true, BitVec.and_zero, BitVec.and_zero] at h

theorem decodeWord_and_valid_cursor : decodeWord v st b &&& 0x700#11 = decodeWord v st 0#8 := by
  have h := decodeWord_and v true st (BitVec.allOnes 2) b 0#8
  rwa [Bool.and_true, BitVec.and_allOnes, BitVec.and_zero] at h

theorem decodeWord_and_all : decodeWord v st b &&& 0x7FF#11 = decodeWord v st b := BitVec.and_allOnes

/-! When each row is selected. -/

theorem OpRow.hits_iff {r : OpRow} {w : BitVec 11} : r.hits w = true ↔ w &&& r.mask = r.pattern := beq_iff_eq

@[simp] theorem idleRow_hits_iff : idleRow.hits (decodeWord v st b) = true ↔ v = false := by
  have hpat : idleRow.pattern = decodeWord false .await 0#8 := rfl
  rw [OpRow.hits_iff, hpat, idleRow, decodeWord_and_valid, decodeWord_inj]
  simp

@[simp] theorem syncRow_hits_iff :
    syncRow.hits (decodeWord v st b) = true ↔ v = true ∧ st = .await ∧ b = Config.preamble := by
  rw [OpRow.hits_iff, syncRow, decodeWord_and_all, decodeWord_inj]

theorem byteStepRow_mask (c : Cursor) : (byteStepRow c).mask = 0x700#11 := by cases c <;> rfl

theorem byteStepRow_pattern (c : Cursor) : (byteStepRow c).pattern = decodeWord true c 0#8 := by cases c <;> rfl

@[simp] theorem byteStepRow_hits_iff (c : Cursor) :
    (byteStepRow c).hits (decodeWord v st b) = true ↔ v = true ∧ st = c := by
  rw [OpRow.hits_iff, byteStepRow_mask, byteStepRow_pattern, decodeWord_and_valid_cursor, decodeWord_inj]
  simp

/-- The rows that a word selects, in priority order. -/
def rowsHitBy (w : BitVec 11) : List OpRow := opcodeRows.filter fun r => r.hits w

theorem mem_rowsHitBy {w : BitVec 11} {r : OpRow} : r ∈ rowsHitBy w ↔ r ∈ opcodeRows ∧ r.hits w = true :=
  List.mem_filter

theorem tableOp_word (w : BitVec 11) : tableOp ⟨false, w⟩ = (rowsHitBy w).head?.map OpRow.op := by
  rw [rowsHitBy, List.head?_filter]
  rfl

theorem rowsHitBy_idle : rowsHitBy (decodeWord false st b) = [idleRow] := by
  simp [rowsHitBy, opcodeRows_eq]

theorem rowsHitBy_preamble :
    rowsHitBy (decodeWord true .await Config.preamble) = [syncRow, byteStepRow .await] := by
  simp [rowsHitBy, opcodeRows_eq]

variable {st b}

theorem rowsHitBy_byteStep (h : st = .await → b ≠ Config.preamble) :
    rowsHitBy (decodeWord true st b) = [byteStepRow st] := by
  cases st <;> simp [rowsHitBy, opcodeRows_eq, h]

theorem decodeByteStep_op (h : st = .await → b ≠ Config.preamble) :
    (decodeByteStep Config.preamble st b).op = (byteStepRow st).op := by
  cases st with
  | await => rw [decodeByteStep_await_other (h rfl)]; rfl
  | have1 | have2 | have3 => rfl

theorem eq_of_decodeByteStep_operand {p c : Byte} (h : (decodeByteStep p st b).operand = some c) : c = b := by
  cases st with
  | await =>
    by_cases hb : b = p
    · rw [hb, decodeByteStep_await_preamble] at h; cases h
    · rw [decodeByteStep_await_other hb] at h; cases h; rfl
  | have1 | have2 | have3 => cases h; rfl

/-- A word selects one row, or SYNC's and SKIP's (R63). -/
theorem rowsHitBy_eq_singleton_or_sync_skip (w : BitVec 11) :
    (∃ r, rowsHitBy w = [r]) ∨ rowsHitBy w = [syncRow, byteStepRow .await] := by
  rw [← decodeWord_fields w]
  cases wValid w with
  | false => exact .inl ⟨_, rowsHitBy_idle _ _⟩
  | true =>
    by_cases h : wCursor w = .await ∧ wByte w = Config.preamble
    · obtain ⟨hst, hb⟩ := h
      rw [hst, hb]
      exact .inr rowsHitBy_preamble
    · exact .inl ⟨_, rowsHitBy_byteStep fun hst hb => h ⟨hst, hb⟩⟩

theorem tableOp_eq_decode (e : EventWord) : tableOp e = some (decode e).op := by
  obtain ⟨w, rfl⟩ | ⟨st, b, rfl⟩ | ⟨st, b, rfl⟩ := e.eq_reset_or_idle_or_byteStep
  · rfl
  · rw [tableOp_word, rowsHitBy_idle, decode, decodeAt_decodeWord_idle]; rfl
  · rw [tableOp_word, decode, decodeAt_byteStep]
    by_cases h : st = .await ∧ b = Config.preamble
    · obtain ⟨rfl, rfl⟩ := h
      rw [rowsHitBy_preamble, decodeByteStep_await_preamble]; rfl
    · have hother : st = .await → b ≠ Config.preamble := fun hst hb => h ⟨hst, hb⟩
      rw [rowsHitBy_byteStep hother, decodeByteStep_op hother]; rfl

theorem eq_wByte_of_decode_operand {e : EventWord} {c : Byte} (h : (decode e).operand = some c) :
    c = wByte e.w := by
  obtain ⟨w, rfl⟩ | ⟨st, b, rfl⟩ | ⟨st, b, rfl⟩ := e.eq_reset_or_idle_or_byteStep
  · cases h
  · rw [decode, decodeAt_decodeWord_idle] at h; cases h
  · rw [decode, decodeAt_byteStep] at h
    rw [wByte_decodeWord, eq_of_decodeByteStep_operand h]

theorem eq_or_sync_skip_of_hits {w : BitVec 11} {r₁ r₂ : OpRow} (h₁ : r₁ ∈ rowsHitBy w) (h₂ : r₂ ∈ rowsHitBy w) :
    r₁ = r₂ ∨ (r₁.op = .SYNC ∧ r₂.op = .SKIP) ∨ (r₁.op = .SKIP ∧ r₂.op = .SYNC) := by
  obtain ⟨r, hw⟩ | hw := rowsHitBy_eq_singleton_or_sync_skip w
  · rw [hw, List.mem_singleton] at h₁ h₂
    exact .inl (h₁.trans h₂.symm)
  · rw [hw, List.mem_pair] at h₁ h₂
    obtain rfl | rfl := h₁ <;> obtain rfl | rfl := h₂
    · exact .inl rfl
    · exact .inr (.inl ⟨rfl, rfl⟩)
    · exact .inr (.inr ⟨rfl, rfl⟩)
    · exact .inl rfl

/-- Settles O11: the decoder against the rows that a word selects, of which there are two at SYNC's word alone. -/
theorem decoderIsTheOpcodeTable : Obligations.DecoderIsTheOpcodeTable := by
  refine ⟨tableOp_eq_decode, fun _ _ => eq_wByte_of_decode_operand, ?overlap, ?byteIrrelevant⟩
  case overlap =>
    intro r₁ hr₁ r₂ hr₂ w h₁ h₂
    exact eq_or_sync_skip_of_hits (mem_rowsHitBy.mpr ⟨hr₁, h₁⟩) (mem_rowsHitBy.mpr ⟨hr₂, h₂⟩)
  case byteIrrelevant =>
    intro st b₁ b₂ hst
    rw [Machine.select_ofByte, Machine.select_ofByte, decodeByteStep_op (absurd · hst),
      decodeByteStep_op (absurd · hst)]

end Sys2Proof
end

section
/-! SUPPORT. The operation of an edge (R64), and the layout of a frame (R70). -/

namespace Sys2Proof.Machine

/-- A step at a given edge runs the operation that the edge selects, with the edge gone (R64). -/
theorem step_at_edge {s : State} {p : PortSample} {rest : List PortSample} (h : s.edges = p :: rest) :
    step s = exec (select s.st p) (s.withEdges rest) := by
  have hadvance : s.advance = s.withEdges rest := congrArg s.withEdges (congrArg List.tail h)
  rw [step, nextInstr, nextEdge_eq_head h, hadvance]

/-- Settles O10: the three cases of the selection, and the step at an edge. -/
theorem eventPriority : Obligations.EventPriority :=
  ⟨fun _ _ => ⟨select_rst, select_idle, select_byte⟩, fun _ _ _ h => step_at_edge h⟩

/-- Settles O37: `encodeFrame` is the display of R70, at each of its arguments. -/
theorem encodeFrameLaysOutFrame : Obligations.EncodeFrameLaysOutFrame :=
  fun _ _ _ => ⟨rfl, rfl, rfl⟩

end Sys2Proof.Machine
end

section
/-! SUPPORT. The hunt for a frame's first byte: the functions over a stream in AWAIT (R83), and a byte's edge there
(R80, R81). -/

namespace Sys2Proof.Machine

variable {p b : Byte}

theorem feed_nil (p : Byte) (q : Parser) : feed p q [] = (q, []) := rfl

/-- `Feed` takes the first byte and then the others (R112). -/
theorem feed_cons (p : Byte) (q : Parser) (b : Byte) (rest : List Byte) : feed p q (b :: rest) =
    ((feed p (stepByte p q b).1 rest).1, (stepByte p q b).2.toList ++ (feed p (stepByte p q b).1 rest).2) := rfl

/-- A byte that completes no record leaves all of `Feed`'s answer to the bytes after it. -/
theorem feed_cons_of_no_record {q q' : Parser} (h : stepByte p q b = (q', none)) (rest : List Byte) :
    feed p q (b :: rest) = feed p q' rest := by
  rw [feed_cons, h]; rfl

/-- Bytes that are no preamble are lost without trace in AWAIT, whatever follows them (R83). -/
theorem feed_await_append {bs : List Byte} (x₁ x₂ : Byte) (rest : List Byte) (h : p ∉ bs) :
    feed p ⟨.await, x₁, x₂⟩ (bs ++ rest) = feed p ⟨.await, x₁, x₂⟩ rest := by
  induction bs with
  | nil => rfl
  | cons b bs ih =>
    obtain ⟨hb, hbs⟩ := List.ne_and_not_mem_of_not_mem_cons h
    calc feed p ⟨.await, x₁, x₂⟩ (b :: (bs ++ rest))
      _ = feed p ⟨.await, x₁, x₂⟩ (bs ++ rest) := feed_cons_of_no_record (stepByte_other x₁ x₂ (Ne.symm hb)) _
      _ = feed p ⟨.await, x₁, x₂⟩ rest := ih hbs

/-- Settles O32: the bytes before the first preamble are lost, with nothing after them and with a preamble after
them. -/
theorem huntEndsAtFirstPreamble : Obligations.HuntEndsAtFirstPreamble := by
  intro p x₁ x₂ bs rest h
  constructor
  · rw [← List.append_nil bs, feed_await_append x₁ x₂ [] h, feed_nil]
  · rw [feed_await_append x₁ x₂ _ h, feed_cons_of_no_record (stepByte_preamble p x₁ x₂)]

variable {s t : State} {rest : List PortSample}

/-- A step at a byte's edge, from what the operation that the byte selects makes of the state. -/
theorem step_at_byteEdge (hedges : s.edges = .ofByte b :: rest)
    (h : exec (select s.st (.ofByte b)) s = .next t) : step s = .next (t.withEdges rest) :=
  (step_at_edge hedges).trans (exec_withEdges h rest)

theorem outValid_of_ne_have3 {e : PortSample} (hst : s.st ≠ .have3) : outValid s e = false := by
  rw [outValid, outRecord_of_ne_have3 hst, Option.isSome_none]

/-- Settles O4: SKIP's selection, its row and its effect. -/
theorem skipDiscardsOtherByte : Obligations.SkipDiscardsOtherByte := by
  intro s b hst hb
  have hnot : s.st ≠ .have3 := by simp [hst]
  refine ⟨exec_skip b s, decodeWord_and_valid_cursor true .await b, fun rest hedges =>
    ⟨?selected, outRecord_of_ne_have3 hnot, outValid_of_ne_have3 hnot,
      step_at_byteEdge hedges (exec_select_other hst hb)⟩⟩
  rw [hst, select_ofByte, decodeByteStep_await_other hb]

/-- Settles O5: SYNC's selection, its word and its effect, the preamble being 0xA5. -/
theorem syncOpensFrame : Obligations.SyncOpensFrame := by
  intro s hst
  have hnot : s.st ≠ .have3 := by simp [hst]
  refine ⟨exec_sync s, rfl, fun rest hedges =>
    ⟨?selected, outRecord_of_ne_have3 hnot, outValid_of_ne_have3 hnot,
      step_at_byteEdge hedges (exec_select_preamble hst)⟩⟩
  rw [hst, select_ofByte]
  exact decodeByteStep_await_preamble Config.preamble

end Sys2Proof.Machine

namespace Sys2Proof

/-- Outside AWAIT the decoder does not look at the preamble (R82). -/
theorem decodeByteStep_preamble_irrelevant {st : Cursor} (p₁ p₂ b : Byte) (h : st ≠ .await) :
    decodeByteStep p₁ st b = decodeByteStep p₂ st b := by
  cases st with
  | await => exact absurd rfl h
  | have1 | have2 | have3 => rfl

/-- Settles O15: the comparison is equality with the preamble, and a byte is its eight bits and is its number. -/
theorem preambleComparisonIsFullEquality : Obligations.PreambleComparisonIsFullEquality := by
  refine ⟨fun b => ?bits, fun b => ?number, fun st p₁ p₂ b => decodeByteStep_preamble_irrelevant p₁ p₂ b⟩
  case bits => exact (isPreamble_iff _ b).trans BitVec.eq_of_getLsbD_eq_iff
  case number => exact (isPreamble_iff _ b).trans BitVec.toNat_inj.symm

end Sys2Proof
end

section
/-! SUPPORT. A byte's edge inside a frame: the two captures (R90, R91), and the preamble's value as payload (R92). -/

namespace Sys2Proof.Machine

variable {s : State} {b : Byte} {rest : List PortSample}

/-! The step at a byte's edge in HAVE1, HAVE2 and HAVE3, for every byte. -/

theorem step_have1 (hst : s.st = .have1) (hedges : s.edges = .ofByte b :: rest) :
    step s = .next { s with st := .have2, x1 := b, edges := rest, taken := s.taken ++ [b] } :=
  step_at_byteEdge hedges (exec_select_have1 b hst)

theorem step_have2 (hst : s.st = .have2) (hedges : s.edges = .ofByte b :: rest) :
    step s = .next { s with st := .have3, x2 := b, edges := rest, taken := s.taken ++ [b] } :=
  step_at_byteEdge hedges (exec_select_have2 b hst)

theorem step_have3 (hst : s.st = .have3) (hedges : s.edges = .ofByte b :: rest) :
    step s = .next { s with
      st := .await, edges := rest, taken := s.taken ++ [b], out := s.out ++ [⟨s.x1, s.x2, b⟩] } :=
  step_at_byteEdge hedges (exec_select_have3 b hst)

/-- Settles O6: CAP1's effect, its row, its selection and the step in HAVE1. -/
theorem captureOneStoresFirstField : Obligations.CaptureOneStoresFirstField := by
  intro s b hst
  have hnot : s.st ≠ .have3 := by simp [hst]
  refine ⟨exec_cap1 b s, decodeWord_and_valid_cursor true .have1 b, fun rest hedges =>
    ⟨?selected, outRecord_of_ne_have3 hnot, outValid_of_ne_have3 hnot, step_have1 hst hedges⟩⟩
  rw [hst, select_ofByte, decodeByteStep_have1]

/-- Settles O7: CAP2's effect, its row, its selection and the step in HAVE2. -/
theorem captureTwoStoresSecondField : Obligations.CaptureTwoStoresSecondField := by
  intro s b hst
  have hnot : s.st ≠ .have3 := by simp [hst]
  refine ⟨exec_cap2 b s, decodeWord_and_valid_cursor true .have2 b, fun rest hedges =>
    ⟨?selected, outRecord_of_ne_have3 hnot, outValid_of_ne_have3 hnot, step_have2 hst hedges⟩⟩
  rw [hst, select_ofByte, decodeByteStep_have2]

/-- Settles O16: what holds inside a frame of every byte, at the byte that is the preamble. -/
theorem preambleIsPayloadInsideFrame : Obligations.PreambleIsPayloadInsideFrame :=
  fun _ _ hedges => ⟨(step_have1 · hedges), (step_have2 · hedges), (step_have3 · hedges)⟩

end Sys2Proof.Machine
end

section
/-! SUPPORT. The record of an EMIT cycle on the output ports (R100, R101), and how many records a run can make of the
bytes it consumes (R116). -/

namespace Sys2Proof.Machine

variable {s t : State} {p : PortSample} {b : Byte}

/-! The EMIT cycle: a byte is taken in HAVE3. -/

theorem select_of_accepted_have3 (h : p.accepted = some b) (hst : s.st = .have3) : select s.st p = .emit b := by
  obtain ⟨hr, hv, rfl⟩ := PortSample.accepted_eq_some_iff.mp h
  rw [hst, select_byte hr hv, decodeByteStep_have3]

theorem outValid_of_accepted_have3 (h : p.accepted = some b) (hst : s.st = .have3) : outValid s p = true := by
  rw [outValid, outRecord_of_accepted h hst, Option.isSome_some]

/-- In every cycle but an EMIT cycle `out_valid` is 0 (R101): the cursor is not HAVE3, or no byte is taken. -/
theorem outValid_of_select_ne_emit (h : (select s.st p).op ≠ .EMIT) : outValid s p = false := by
  by_cases hst : s.st = .have3
  · cases hp : p.accepted with
    | none => rw [outValid, outRecord_of_not_accepted hp, Option.isSome_none]
    | some b => exact absurd (congrArg Instr.op (select_of_accepted_have3 hp hst)) h
  · exact outValid_of_ne_have3 hst

/-- Settles O8: EMIT's effect, its row, its selection, its record and the step in HAVE3. -/
theorem emitDeliversRecord : Obligations.EmitDeliversRecord := by
  intro s b hst
  have hb : (PortSample.ofByte b).accepted = some b := PortSample.accepted_ofByte b
  exact ⟨exec_emit b s, decodeWord_and_valid_cursor true .have3 b, fun rest hedges =>
    ⟨select_of_accepted_have3 hb hst, outRecord_of_accepted hb hst, outValid_of_accepted_have3 hb hst,
      step_have3 hst hedges⟩⟩

/-! The rate of records. A record stands for the four bytes of its frame, so what the records and the cursor stand for
grows by no more than the bytes consumed. -/

/-- The bytes that the records of `OUT` and the frame in progress stand for: the left side of `Safety.RateBounded`. -/
def State.bytesFramed (s : State) : Nat := Config.frameLen * s.out.length + cursorIndex s.st

theorem rateBounded_iff_bytesFramed_le : Safety.RateBounded s ↔ s.bytesFramed ≤ s.taken.length := Iff.rfl

theorem cursorIndex_lt_frameLen (c : Cursor) : cursorIndex c < Config.frameLen := by cases c <;> decide

/-- A step frames at most the byte that it consumes: RESET drops the frame in progress, SKIP's byte is in no frame, and
EMIT's record takes the place of the three bytes before it and its own. -/
theorem step_bytesFramed_le (h : step s = .next t) :
    t.bytesFramed ≤ s.bytesFramed + (nextEdge s).accepted.toList.length := by
  obtain ⟨-, rfl⟩ | ⟨-, -, rfl⟩ | ⟨hb, hst, rfl⟩ | ⟨b, -, -, -, rfl⟩ | ⟨b, hb, hst, rfl⟩ | ⟨b, hb, hst, rfl⟩ |
    ⟨b, hb, hst, rfl⟩ := step_cases h
  · exact Nat.le_add_right_of_le (Nat.add_le_add_left (Nat.zero_le _) _)
  · exact Nat.le_add_right _ _
  · simp [State.bytesFramed, cursorIndex, hb, hst]
  · exact Nat.le_add_right _ _
  · simp [State.bytesFramed, cursorIndex, hb, hst]
  · simp [State.bytesFramed, cursorIndex, hb, hst]
  · simp [State.bytesFramed, cursorIndex, hb, hst, Config.frameLen, Nat.mul_add, Nat.add_assoc]

theorem exists_exec_eq_next (i : Instr) (s : State) : ∃ t, exec i s = .next t := by cases i <;> exact ⟨_, rfl⟩

theorem exists_step_eq_next (s : State) : ∃ t, step s = .next t := exists_exec_eq_next _ _

/-- A run frames at most the bytes that it consumes (R116). -/
theorem runEdges_bytesFramed_le {es : List PortSample} (h : runEdges s es = .next t) :
    t.bytesFramed ≤ s.bytesFramed + (acceptedBytes es).length := by
  induction es generalizing s with
  | nil =>
    rw [runEdges_nil] at h
    cases h
    exact Nat.le_add_right _ _
  | cons e es ih =>
    obtain ⟨u, hu⟩ := exists_step_eq_next (s.withEdges (e :: es))
    have hstep : u.bytesFramed ≤ s.bytesFramed + e.accepted.toList.length := step_bytesFramed_le hu
    have hrest : t.bytesFramed ≤ u.bytesFramed + (acceptedBytes es).length := ih (by rwa [runEdges_cons hu] at h)
    rw [acceptedBytes_cons, List.length_append]
    omega

/-- With the frame in progress three bytes at most, four more bytes complete one frame and not a second. -/
theorem runEdges_out_length_le {es : List PortSample} (hes : (acceptedBytes es).length ≤ Config.frameLen)
    (h : runEdges s es = .next t) : t.out.length ≤ s.out.length + 1 := by
  have hrun := runEdges_bytesFramed_le h
  have hst := cursorIndex_lt_frameLen s.st
  simp only [State.bytesFramed, Config.frameLen] at hrun hst hes
  omega

/-- Settles O20: the EMIT cycle, the other cycles, the step that appends its cycle's record, and the rate over a run. -/
theorem outputPortsShowTheRecord : Obligations.OutputPortsShowTheRecord := by
  refine ⟨fun s p hr hv hst => ?emitCycle, fun _ _ => outValid_of_select_ne_emit, fun _ _ => step_out,
    fun _ _ _ => runEdges_out_length_le⟩
  case emitCycle =>
    have hb := PortSample.accepted_byte hr hv
    exact ⟨select_of_accepted_have3 hb hst, outValid_of_accepted_have3 hb hst, outRecord_of_accepted hb hst⟩

end Sys2Proof.Machine
end

section
/-! SUPPORT. `Feed` at its first byte, cursor by cursor, and a stream cut into buffers (R112 to R114). -/

namespace Sys2Proof.Machine

/-! `Feed` at its first byte, in each cursor state where the byte has one meaning. -/

theorem feed_preamble (p x₁ x₂ : Byte) (rest : List Byte) :
    feed p ⟨.await, x₁, x₂⟩ (p :: rest) = feed p ⟨.have1, x₁, x₂⟩ rest :=
  feed_cons_of_no_record (stepByte_preamble p x₁ x₂) rest

theorem feed_have1 (p b x₁ x₂ : Byte) (rest : List Byte) :
    feed p ⟨.have1, x₁, x₂⟩ (b :: rest) = feed p ⟨.have2, b, x₂⟩ rest :=
  feed_cons_of_no_record (stepByte_have1 p b x₁ x₂) rest

theorem feed_have2 (p b x₁ x₂ : Byte) (rest : List Byte) :
    feed p ⟨.have2, x₁, x₂⟩ (b :: rest) = feed p ⟨.have3, x₁, b⟩ rest :=
  feed_cons_of_no_record (stepByte_have2 p b x₁ x₂) rest

/-- The byte that completes a frame: its record comes first, and the hunt goes on over the rest (R100). -/
theorem feed_have3 (p b x₁ x₂ : Byte) (rest : List Byte) :
    feed p ⟨.have3, x₁, x₂⟩ (b :: rest) =
      ((feed p ⟨.await, x₁, x₂⟩ rest).1, ⟨x₁, x₂, b⟩ :: (feed p ⟨.await, x₁, x₂⟩ rest).2) := by
  rw [feed_cons, stepByte_have3]; rfl

/-- One byte in AWAIT (R80, R81). -/
theorem feed_await_singleton (p c x₁ x₂ : Byte) :
    feed p ⟨.await, x₁, x₂⟩ [c] = (⟨if c = p then .have1 else .await, x₁, x₂⟩, []) := by
  by_cases hc : c = p
  · rw [if_pos hc, hc, feed_preamble, feed_nil]
  · rw [if_neg hc, feed_cons_of_no_record (stepByte_other x₁ x₂ hc), feed_nil]

/-! Splits (R113, R114). -/

/-- `Feed` of a stream in two buffers: the second starts where the first ended, and its records come after. -/
theorem feed_append (p : Byte) (q : Parser) (u v : List Byte) :
    feed p q (u ++ v) =
      ((feed p (feed p q u).1 v).1, (feed p q u).2 ++ (feed p (feed p q u).1 v).2) := by
  induction u generalizing q with
  | nil => rfl
  | cons b u ih => simp only [List.cons_append, feed_cons, ih, List.append_assoc]

/-- The first edge of a run executes its operation on the start state, whatever edges that lists. -/
theorem runEdges_cons_of_exec_select {s t : State} {e : PortSample} (h : exec (select s.st e) s = .next t)
    (es : List PortSample) : runEdges s (e :: es) = runEdges t es :=
  (runEdges_cons_of_exec (exec_withEdges h es)).trans rfl

/-- A run over two lists of events is the run over the first and then over the second (R122). -/
theorem runEdges_append {s t : State} {es : List PortSample} (fs : List PortSample)
    (h : runEdges s es = .next t) : runEdges s (es ++ fs) = runEdges t fs := by
  induction es generalizing s with
  | nil =>
    rw [runEdges_nil] at h
    cases h
    rfl
  | cons e es ih =>
    obtain ⟨u, hu⟩ := exists_exec_eq_next (select s.st e) s
    rw [runEdges_cons_of_exec_select hu] at h
    rw [List.cons_append, runEdges_cons_of_exec_select hu]
    exact ih h

/-- Settles O28: `Feed` of no bytes, and a run over no events. -/
theorem emptyFeedChangesNothing : Obligations.EmptyFeedChangesNothing := ⟨feed_nil, runEdges_nil⟩

/-- Settles O29, from the law of each split. -/
theorem splitInvariance : Obligations.SplitInvariance := by
  refine ⟨fun p q q₁ q₂ u v r₁ r₂ hu hv => ?feeds, fun _ _ _ fs h => runEdges_append fs h⟩
  case feeds => simp only [feed_append, hu, hv]

end Sys2Proof.Machine
end

section
/-! SUPPORT. How many records `Feed` can make, and those that it makes of frames (R116 to R120). -/

namespace Sys2Proof.Machine

variable {q : Parser} {bs : List Byte}

/-! The rate of records (R116). As on the machine's own streams (`step_bytesFramed_le`), a record stands for four bytes
and the cursor for those of the frame in progress. -/

/-- Inside a frame every byte counts: it moves the cursor on by one, or completes a record. -/
theorem stepByte_rate_of_inside (p b : Byte) (h : q.st ≠ .await) :
    4 * (stepByte p q b).2.toList.length + cursorIndex (stepByte p q b).1.st = cursorIndex q.st + 1 := by
  obtain ⟨st, x₁, x₂⟩ := q
  cases st with
  | await => exact absurd rfl h
  | have1 | have2 | have3 => rfl

theorem stepByte_rate_le (p b : Byte) (q : Parser) :
    4 * (stepByte p q b).2.toList.length + cursorIndex (stepByte p q b).1.st ≤ cursorIndex q.st + 1 := by
  by_cases hst : q.st = .await
  · obtain ⟨st, x₁, x₂⟩ := q
    obtain rfl : st = .await := hst
    by_cases hb : b = p
    · rw [hb, stepByte_preamble]; exact le_rfl
    · rw [stepByte_other x₁ x₂ hb]; exact Nat.zero_le _
  · exact (stepByte_rate_of_inside p b hst).le

theorem feed_rate_le (p : Byte) (q : Parser) (bs : List Byte) :
    4 * (feed p q bs).2.length + cursorIndex (feed p q bs).1.st ≤ cursorIndex q.st + bs.length := by
  induction bs generalizing q with
  | nil => simp [feed_nil]
  | cons b bs ih =>
    have hstep := stepByte_rate_le p b q
    have hrest := ih (stepByte p q b).1
    simp only [feed_cons, List.length_append, List.length_cons]
    omega

/-- Too few bytes to complete a frame make no record. -/
theorem feed_records_eq_nil (p : Byte) (h : bs.length + cursorIndex q.st < 4) : (feed p q bs).2 = [] := by
  have hrate := feed_rate_le p q bs
  exact List.eq_nil_of_length_eq_zero (by omega)

theorem feed_await_few (p x₁ x₂ : Byte) (h : bs.length < 4) : (feed p ⟨.await, x₁, x₂⟩ bs).2 = [] :=
  feed_records_eq_nil p h

theorem cursorIndex_eq_zero_iff {c : Cursor} : cursorIndex c = 0 ↔ c = .await := by cases c <;> decide

/-- Inside a frame, bytes too few to complete it move the cursor on by their number (R117). -/
theorem feed_cursorIndex_of_inside (p : Byte) (hst : q.st ≠ .await) (h : bs.length + cursorIndex q.st < 4) :
    cursorIndex (feed p q bs).1.st = cursorIndex q.st + bs.length := by
  induction bs generalizing q with
  | nil => rfl
  | cons b bs ih =>
    rw [List.length_cons] at h
    have hstep := stepByte_rate_of_inside p b hst
    have hnext : cursorIndex (stepByte p q b).1.st = cursorIndex q.st + 1 := by omega
    have hinside : (stepByte p q b).1.st ≠ .await := by
      rw [Ne, ← cursorIndex_eq_zero_iff]
      omega
    rw [feed_cons, ih hinside (by omega), hnext, List.length_cons]
    omega

/-! Whole frames (R118). -/

theorem feed_frame (p x₁ x₂ : Byte) (r : Record) :
    feed p ⟨.await, x₁, x₂⟩ (frameOf p r) = (⟨.await, r.code, r.arg1⟩, [r]) := by
  rw [frameOf, encodeFrame, feed_preamble, feed_have1, feed_have2, feed_have3, feed_nil]

theorem feed_frames (p x₁ x₂ : Byte) (rs : List Record) :
    (feed p ⟨.await, x₁, x₂⟩ (rs.flatMap (frameOf p))).2 = rs ∧
      (feed p ⟨.await, x₁, x₂⟩ (rs.flatMap (frameOf p))).1.st = .await := by
  induction rs generalizing x₁ x₂ with
  | nil => exact ⟨rfl, rfl⟩
  | cons r rs ih =>
    obtain ⟨hrecords, hst⟩ := ih r.code r.arg1
    rw [List.flatMap_cons, feed_append, feed_frame]
    exact ⟨congrArg (r :: ·) hrecords, hst⟩

theorem length_flatMap_frameOf (p : Byte) (rs : List Record) :
    (rs.flatMap (frameOf p)).length = rs.length * 4 := by
  simp [List.length_flatMap, frameOf, encodeFrame]

/-- Settles O33: one frame, and the frames of a list one after the other. -/
theorem framesRoundTrip : Obligations.FramesRoundTrip :=
  ⟨fun p c a₁ a₂ x₁ x₂ => feed_frame p x₁ x₂ ⟨c, a₁, a₂⟩, feed_frames⟩

/-- Settles O30: the rate of `Feed`, with the cursor's index at most three, and the round trip of frames. -/
theorem recordRateIsBounded : Obligations.RecordRateIsBounded := by
  refine ⟨fun p q bs => ?bound, fun p x₁ x₂ rs => ?met⟩
  case bound =>
    have hrate := feed_rate_le p q bs
    have hst : cursorIndex q.st < 4 := cursorIndex_lt_frameLen q.st
    omega
  case met => rw [(feed_frames p x₁ x₂ rs).1, length_flatMap_frameOf, Nat.mul_div_cancel _ (by decide)]

/-- Settles O31: the bytes that complete the frame in progress, and then the hunt over bytes without a preamble. -/
theorem inputWithoutPreamble : Obligations.InputWithoutPreamble := by
  intro p x₁ x₂ bs h
  have hunt (y₁ y₂ : Byte) : feed p ⟨.await, y₁, y₂⟩ bs = (⟨.await, y₁, y₂⟩, []) :=
    (huntEndsAtFirstPreamble p y₁ y₂ bs [] h).1
  refine ⟨hunt x₁ x₂, fun b₁ b₂ b₃ => ?_, fun b₂ b₃ => ?_, fun b₃ => ?_, fun st hst hlen =>
    ⟨feed_records_eq_nil p hlen, feed_cursorIndex_of_inside p hst hlen⟩⟩
  · rw [feed_have1, feed_have2, feed_have3, hunt]
  · rw [feed_have2, feed_have3, hunt]
  · rw [feed_have3, hunt]

/-- Settles O34: the bytes of a frame one after the other. -/
theorem partialFramesAreKept : Obligations.PartialFramesAreKept := by
  intro p a b c x₁ x₂
  refine ⟨?_, ?_, ?_, ?_, ?_, ?_⟩
  · rw [feed_preamble, feed_nil]
  · rw [feed_preamble, feed_have1, feed_nil]
  · rw [feed_preamble, feed_have1, feed_have2, feed_nil]
  · rw [feed_have1, feed_have2, feed_have3, feed_nil]
  · rw [feed_have2, feed_have3, feed_nil]
  · rw [feed_have3, feed_nil]

/-- The four cursor states of R120: the bytes that complete a record, and too few after it to complete another. -/
theorem feed_four_bytes (p a b c x₁ x₂ : Byte) :
    (feed p ⟨.await, x₁, x₂⟩ [p, a, b, c]).2 = [⟨a, b, c⟩] ∧
    feed p ⟨.have1, x₁, x₂⟩ [p, a, b, c] = (⟨if c = p then .have1 else .await, p, a⟩, [⟨p, a, b⟩]) ∧
    (feed p ⟨.have2, x₁, x₂⟩ [p, a, b, c]).2 = [⟨x₁, p, a⟩] ∧
    (feed p ⟨.have3, x₁, x₂⟩ [p, a, b, c]).2 = [⟨x₁, x₂, p⟩] := by
  refine ⟨?_, ?_, ?_, ?_⟩
  · rw [feed_preamble, feed_have1, feed_have2, feed_have3, feed_nil]
  · rw [feed_have1, feed_have2, feed_have3, feed_await_singleton]
  · rw [feed_have2, feed_have3, feed_await_few (bs := [b, c]) p _ _ (by simp)]
  · rw [feed_have3, feed_await_few (bs := [a, b, c]) p _ _ (by simp)]

/-- Settles O35: the records of the four cursor states, each a list of one. -/
theorem fourByteWindowYieldsOneRecord : Obligations.FourByteWindowYieldsOneRecord := by
  refine ⟨fun p a b c ⟨st, x₁, x₂⟩ => ?_, feed_four_bytes⟩
  obtain ⟨hawait, hhave1, hhave2, hhave3⟩ := feed_four_bytes p a b c x₁ x₂
  cases st with
  | await => rw [hawait]; rfl
  | have1 => rw [hhave1]; rfl
  | have2 => rw [hhave2]; rfl
  | have3 => rw [hhave3]; rfl

/-- Settles O40: what a step adds to the bytes framed is at most what it adds to the bytes consumed. -/
theorem stepKeepsRateBounded : Obligations.StepKeepsRateBounded := by
  intro s t hs h
  rw [rateBounded_iff_bytesFramed_le] at hs ⊢
  calc t.bytesFramed
    _ ≤ s.bytesFramed + (nextEdge s).accepted.toList.length := step_bytesFramed_le h
    _ ≤ s.taken.length + (nextEdge s).accepted.toList.length := Nat.add_le_add_right hs _
    _ = t.taken.length := by rw [step_taken h, List.length_append]

end Sys2Proof.Machine
end

section
/-! SUPPORT. The machine against the spec's own functions `Clock` and `Feed` (R111, R112), and runs with IDLE edges
among their events (R110, R121). -/

namespace Sys2Proof.Machine

variable {p d₁ d₂ : Byte} {q : Parser} {e : PortSample} {s t u : State}

/-! `Clock`, one equation for each of its three cases (R111). -/

theorem clock_rst (h : e.rst = true) : clock p d₁ d₂ q e = (⟨.await, d₁, d₂⟩, none) := by simp [clock, h]

theorem clock_idle (hr : e.rst = false) (hv : e.inValid = false) : clock p d₁ d₂ q e = (q, none) := by
  simp [clock, hr, hv]

theorem clock_byte {b : Byte} (h : e.accepted = some b) : clock p d₁ d₂ q e = stepByte p q b := by
  obtain ⟨hr, hv, rfl⟩ := PortSample.accepted_eq_some_iff.mp h
  simp [clock, hr, hv]

theorem State.parser_eq {c : Cursor} (h : s.st = c) : s.parser = ⟨c, s.x1, s.x2⟩ := by subst h; rfl

/-- A step is `Clock`, the unspecified bytes of a RESET being those that the step left (R111, R160). -/
theorem step_clock (h : step s = .next t) :
    (t.parser, outRecord s (nextEdge s)) = clock Config.preamble t.x1 t.x2 s.parser (nextEdge s) := by
  obtain ⟨hr, rfl⟩ | ⟨hr, hv, rfl⟩ | ⟨hb, hst, rfl⟩ | ⟨b, hb, hst, hne, rfl⟩ | ⟨b, hb, hst, rfl⟩ |
    ⟨b, hb, hst, rfl⟩ | ⟨b, hb, hst, rfl⟩ := step_cases h
  · rw [clock_rst hr, outRecord_of_not_accepted (PortSample.accepted_rst hr)]; rfl
  · rw [clock_idle hr hv, outRecord_of_not_accepted (PortSample.accepted_idle hv)]; rfl
  · rw [clock_byte hb, State.parser_eq hst, stepByte_preamble, outRecord_of_ne_have3 (by simp [hst])]; rfl
  · rw [clock_byte hb, State.parser_eq hst, stepByte_other _ _ hne, outRecord_of_ne_have3 (by simp [hst]), ← hst]; rfl
  · rw [clock_byte hb, State.parser_eq hst, stepByte_have1, outRecord_of_ne_have3 (by simp [hst])]; rfl
  · rw [clock_byte hb, State.parser_eq hst, stepByte_have2, outRecord_of_ne_have3 (by simp [hst])]; rfl
  · rw [clock_byte hb, State.parser_eq hst, stepByte_have3, outRecord_of_accepted hb hst]; rfl

/-- Settles O26: every step answers, it is `Clock`, and it appends its cycle's record. -/
theorem edgeRefinesClockFunction : Obligations.EdgeRefinesClockFunction := by
  intro s
  obtain ⟨t, h⟩ := exists_step_eq_next s
  exact ⟨t.x1, t.x2, t, h, step_clock h, step_out h⟩

/-- With `rst` 0 `Clock` is `Feed` of the byte that the edge presents, if there is one (R112). -/
theorem clock_eq_feed (hr : e.rst = false) :
    ((clock p d₁ d₂ q e).1, (clock p d₁ d₂ q e).2.toList) = feed p q e.accepted.toList := by
  cases hv : e.inValid with
  | false => rw [clock_idle hr hv, PortSample.accepted_idle hv]; rfl
  | true =>
    have hb := PortSample.accepted_byte hr hv
    rw [clock_byte hb, hb, Option.toList_some, feed_cons, feed_nil, List.append_nil]

theorem step_draws (h : step s = .next t) (hr : (nextEdge s).rst = false) : t.draws = s.draws := by
  obtain ⟨hr', -⟩ | ⟨-, -, rfl⟩ | ⟨-, -, rfl⟩ | ⟨b, -, -, -, rfl⟩ | ⟨b, -, -, rfl⟩ | ⟨b, -, -, rfl⟩ |
    ⟨b, -, -, rfl⟩ := step_cases h
  · rw [hr] at hr'; cases hr'
  all_goals rfl

/-- From `s` to `t` the machine has done what `Feed` of the bytes `bs` does, and nothing else but to pass edges. -/
structure Fed (bs : List Byte) (s t : State) : Prop where
  parser : t.parser = (feed Config.preamble s.parser bs).1
  out : t.out = s.out ++ (feed Config.preamble s.parser bs).2
  taken : t.taken = s.taken ++ bs
  draws : t.draws = s.draws

namespace Fed

variable {us vs bs : List Byte}

theorem nil (s : State) (es : List PortSample) : Fed [] s (s.withEdges es) :=
  ⟨rfl, (List.append_nil _).symm, (List.append_nil _).symm, rfl⟩

/-- The edges to come at the start do not matter. -/
theorem of_withEdges {es : List PortSample} (h : Fed bs (s.withEdges es) t) : Fed bs s t :=
  ⟨h.parser, h.out, h.taken, h.draws⟩

theorem trans (hu : Fed us s t) (hv : Fed vs t u) : Fed (us ++ vs) s u where
  parser := by rw [feed_append, hv.parser, hu.parser]
  out := by rw [feed_append, hv.out, hu.out, hu.parser, List.append_assoc]
  taken := by rw [hv.taken, hu.taken, List.append_assoc]
  draws := hv.draws.trans hu.draws

/-- The start state and the bytes decide everything but the edges to come (R121). -/
theorem unique (ht : Fed bs s t) (hu : Fed bs s u) (hedges : t.edges = u.edges) : t = u := by
  have hparser : t.parser = u.parser := ht.parser.trans hu.parser.symm
  exact State.ext_fields (congrArg Parser.st hparser) (congrArg Parser.x1 hparser) (congrArg Parser.x2 hparser)
    hedges (ht.taken.trans hu.taken.symm) (ht.out.trans hu.out.symm) (ht.draws.trans hu.draws.symm)

end Fed

theorem step_fed (h : step s = .next t) (hr : (nextEdge s).rst = false) :
    Fed (nextEdge s).accepted.toList s t := by
  have hfeed : (t.parser, (outRecord s (nextEdge s)).toList) =
      feed Config.preamble s.parser (nextEdge s).accepted.toList := by
    rw [← clock_eq_feed hr, ← step_clock h]
  exact ⟨by rw [← hfeed], by rw [← hfeed, step_out h], step_taken h, step_draws h hr⟩

/-- A run without RESET is `Feed` of the bytes presented (R112). -/
theorem runEdges_fed (s : State) {es : List PortSample} (hes : ∀ e ∈ es, e.rst = false) :
    ∃ t, runEdges s es = .next t ∧ Fed (acceptedBytes es) s t ∧ t.edges = [] := by
  induction es generalizing s with
  | nil => exact ⟨_, runEdges_nil s, .nil s [], rfl⟩
  | cons e es ih =>
    obtain ⟨he, hes⟩ := List.forall_mem_cons.mp hes
    obtain ⟨u, hu⟩ := exists_step_eq_next (s.withEdges (e :: es))
    have hfirst : Fed e.accepted.toList s u := (step_fed hu he).of_withEdges
    obtain ⟨t, ht, hrest, hedges⟩ := ih u hes
    exact ⟨t, (runEdges_cons hu).trans ht, by rw [acceptedBytes_cons]; exact hfirst.trans hrest, hedges⟩

/-- Settles O27: the two equations of the fold, and the run without RESET. -/
theorem runRefinesFeed : Obligations.RunRefinesFeed := by
  refine ⟨feed_nil, feed_cons, fun s es hes => ?run⟩
  case run =>
    obtain ⟨t, ht, hfed, hedges⟩ := runEdges_fed s hes
    exact ⟨t, ht, hfed.parser, hfed.out, hfed.taken, hedges, hfed.draws⟩

/-- Without RESET the bytes presented decide a run (R121). -/
theorem runEdges_eq_of_acceptedBytes_eq (s : State) {es fs : List PortSample} (hes : ∀ e ∈ es, e.rst = false)
    (hfs : ∀ e ∈ fs, e.rst = false) (h : acceptedBytes es = acceptedBytes fs) : runEdges s es = runEdges s fs := by
  obtain ⟨t, ht, htfed, htedges⟩ := runEdges_fed s hes
  obtain ⟨u, hu, hufed, huedges⟩ := runEdges_fed s hfs
  rw [ht, hu, htfed.unique (h ▸ hufed) (htedges.trans huedges.symm)]

theorem acceptedBytes_eq_nil {es : List PortSample} (h : ∀ e ∈ es, e.inValid = false) : acceptedBytes es = [] :=
  List.filterMap_eq_nil_iff.mpr fun e he => PortSample.accepted_idle (h e he)

/-- Settles O3: IDLE's meaning, the step at its edge, and a run that presents no byte, which is the run of no edges. -/
theorem idleChangesNothing : Obligations.IdleChangesNothing := by
  refine ⟨exec_idle, fun s d rest hedges => ?edge, fun s es hes => ?run⟩
  case edge =>
    have hnone : outRecord s ⟨false, false, d⟩ = none := outRecord_of_not_accepted rfl
    have hsel : select s.st ⟨false, false, d⟩ = .idle := select_idle rfl rfl
    refine ⟨hsel, hnone, by rw [outValid, hnone, Option.isSome_none], ?_⟩
    rw [step_at_edge hedges, hsel, exec_idle]
    rfl
  case run =>
    have hbytes : acceptedBytes es = [] := acceptedBytes_eq_nil fun e he => (hes e he).2
    calc runEdges s es
      _ = runEdges s [] := runEdges_eq_of_acceptedBytes_eq s (fun e he => (hes e he).1) (by simp) hbytes
      _ = .next (s.withEdges []) := runEdges_nil s

/-! IDLE edges left out of a run that may have RESET edges (R121). -/

theorem runEdges_cons_idle (s : State) (hr : e.rst = false) (hv : e.inValid = false) (es : List PortSample) :
    runEdges s (e :: es) = runEdges s es :=
  runEdges_cons_of_exec_select (by rw [select_idle hr hv, exec_idle]) es

end Sys2Proof.Machine

namespace Sys2Proof.Safety

open Sys2Proof.Machine

/-- Two runs from related states, the second without the IDLE edges of the first, stay related: each other edge
executes the same operation in both. -/
theorem SameButUnwritten.runEdges_filter {s s' : State} (h : SameButUnwritten s s') (es : List PortSample) :
    ∃ t t', runEdges s es = .next t ∧ runEdges s' (es.filter fun e => e.rst || e.inValid) = .next t' ∧
      SameButUnwritten t t' := by
  induction es generalizing s s' with
  | nil => exact ⟨_, _, runEdges_nil s, runEdges_nil s', h.st, rfl, h.taken, h.out, h.x1, h.x2⟩
  | cons e es ih =>
    cases hkept : e.rst || e.inValid with
    | false =>
      obtain ⟨hr, hv⟩ := Bool.or_eq_false_iff.mp hkept
      rw [runEdges_cons_idle s hr hv, List.filter_cons_of_neg (by simp [hkept])]
      exact ih h
    | true =>
      obtain ⟨u, u', hu, hu', h'⟩ := h.exec (select_selectableIn s.st e)
      rw [runEdges_cons_of_exec_select hu,
        List.filter_cons_of_pos (p := fun e : PortSample => e.rst || e.inValid) hkept,
        runEdges_cons_of_exec_select (h.st ▸ hu')]
      exact ih h'

/-- Settles O36: the two related runs, and the runs that the bytes decide. -/
theorem runsDoNotDependOnTime : Obligations.RunsDoNotDependOnTime :=
  ⟨fun _ _ es h => h.runEdges_filter es, fun s _ _ hes hfs h => runEdges_eq_of_acceptedBytes_eq s hes hfs h⟩

end Sys2Proof.Safety
end

section
/-! SUPPORT. No exception (R130), and the events that coincide at one clock edge (R135): a RESET edge, and a byte's edge
in AWAIT. -/

namespace Sys2Proof.Machine

/-- Settles O17: each operation's meaning is a next state, a step executes one of them, and `Fault` has no
constructor. -/
theorem everyStepCompletes : Obligations.EveryStepCompletes :=
  ⟨exists_exec_eq_next, exists_step_eq_next, nofun⟩

variable {s : State} {p : PortSample} {b : Byte} {rest : List PortSample}

theorem outValid_of_not_accepted (h : p.accepted = none) : outValid s p = false := by
  rw [outValid, outRecord_of_not_accepted h, Option.isSome_none]

/-- A RESET edge, whatever the other pins show (R64, R160). -/
theorem step_rst (hr : p.rst = true) (hedges : s.edges = p :: rest) :
    step s = .next ((s.disturb.setCursor .await).withEdges rest) := by
  rw [step_at_edge hedges, select_rst hr, exec_reset]
  rfl

/-- A byte's edge in AWAIT: SYNC and SKIP both consume it, and the cursor tells them apart (R80, R81). -/
theorem step_await (hst : s.st = .await) (hedges : s.edges = .ofByte b :: rest) :
    step s = .next { s with
      st := if b = Config.preamble then .have1 else .await, edges := rest, taken := s.taken ++ [b] } := by
  by_cases hb : b = Config.preamble
  · subst hb
    rw [if_pos rfl]
    exact step_at_byteEdge hedges (exec_select_preamble hst)
  · rw [if_neg hb, ← hst]
    exact step_at_byteEdge hedges (exec_select_other hst hb)

/-- Settles O23: the RESET edge with a byte on its pins, the byte's edge after a RESET edge, and the byte's edge in
HAVE3. -/
theorem resetWinsOverSimultaneousByte : Obligations.ResetWinsOverSimultaneousByte := by
  refine ⟨fun s d rest hedges => ?byteLost, fun s v d b rest hedges => ?byteAfter, fun s b rest hedges hst => ?emit⟩
  case byteLost =>
    exact ⟨outValid_of_not_accepted (PortSample.accepted_rst rfl), _, step_rst rfl hedges, rfl, rfl, rfl, rfl⟩
  case byteAfter =>
    have hrun : run 2 s = _ := (run_succ (step_rst rfl hedges)).trans (run_succ (step_await rfl rfl))
    exact ⟨_, hrun.trans (run_zero _), rfl, rfl, rfl, rfl⟩
  case emit =>
    exact ⟨_, step_have3 hst hedges, rfl⟩

end Sys2Proof.Machine
end

section
/-! SUPPORT. RESET from any state, and the first frame after it (R160, R162, R163). -/

namespace Sys2Proof.Machine

/-- A RESET edge at the head of a run: the rest of the run starts in AWAIT, with what the streams held before (R160). -/
theorem runEdges_cons_rst (s : State) {e : PortSample} (hr : e.rst = true) (es : List PortSample) :
    runEdges s (e :: es) = runEdges (s.disturb.setCursor .await) es :=
  runEdges_cons_of_exec_select (by rw [select_rst hr, exec_reset]) es

/-- Settles O1: RESET's meaning, and its selection, its silent outputs and its step at an edge with `rst` 1. -/
theorem resetGoesToAwaitFromAnyState : Obligations.ResetGoesToAwaitFromAnyState := by
  refine fun s => ⟨⟨_, exec_reset s, rfl, rfl, rfl, rfl⟩, fun v d rest hedges => ?edge⟩
  case edge =>
    have hnone : (⟨true, v, d⟩ : PortSample).accepted = none := PortSample.accepted_rst rfl
    exact ⟨select_rst rfl, outRecord_of_not_accepted hnone, outValid_of_not_accepted hnone,
      _, step_rst rfl hedges, rfl, rfl, rfl, rfl⟩

/-- Settles O24: the RESET edge leaves AWAIT and `OUT` as it was, and a frame from AWAIT writes both pending registers
and appends its record. -/
theorem frameAfterResetIsDelivered : Obligations.FrameAfterResetIsDelivered := by
  intro s v d r
  have hrun := calc
    runEdges s (⟨true, v, d⟩ :: (frameOf Config.preamble r).map .ofByte)
    _ = runEdges (s.disturb.setCursor .await) ((frameOf Config.preamble r).map .ofByte ++ []) := by
      rw [runEdges_cons_rst s rfl, List.append_nil]
    _ = runEdges ((s.disturb.setCursor .await).afterFrame r) [] := runEdges_frame r [] rfl
    _ = .next (((s.disturb.setCursor .await).afterFrame r).withEdges []) := runEdges_nil _
  exact ⟨_, hrun, rfl, rfl, rfl, rfl⟩

end Sys2Proof.Machine
end

section
/-! SUPPORT. The words of the opcode table: what the decoder reads from one, and what a step runs where one is placed
(logs 7 and 14). -/

namespace Sys2Proof

variable {nbits w : Nat} {st : Cursor} {b : Byte}

theorem decodeTableWord_no_bits (w : Nat) : decodeTableWord 0 w = some .reset := rfl

theorem decodeTableWord_of_lt (hn : nbits ≠ 0) (hw : w < 2048) :
    decodeTableWord nbits w = some (decode ⟨false, BitVec.ofNat 11 w⟩) := by
  rw [decodeTableWord, decodeTableBits, if_neg hn, if_pos hw]

theorem decodeTableWord_of_ge (hn : nbits ≠ 0) (hw : 2048 ≤ w) : decodeTableWord nbits w = none := by
  rw [decodeTableWord, decodeTableBits, if_neg hn, if_neg (Nat.not_lt.mpr hw)]

/-- A number that is written as the three fields of R62 is read as the word of those fields. -/
theorem decodeTableWord_fields {v : Bool} (hn : nbits ≠ 0) (hw : (decodeWord v st b).toNat = w) :
    decodeTableWord nbits w = some (decode ⟨false, decodeWord v st b⟩) := by
  subst hw
  rw [decodeTableWord_of_lt hn (decodeWord v st b).isLt, BitVec.ofNat_toNat, BitVec.setWidth_eq]

/-- The word `0 ss bbbbbbbb` is IDLE (R63). -/
theorem decodeTableWord_idle (st : Cursor) (b : Byte) (hw : (decodeWord false st b).toNat = w) :
    decodeTableWord 16 w = some .idle := by
  rw [decodeTableWord_fields (by decide) hw, decode, decodeAt_decodeWord_idle]

/-- The word `1 ss bbbbbbbb` is the byte step of its cursor and its byte (R63). -/
theorem decodeTableWord_byteStep (st : Cursor) (b : Byte) (hw : (decodeWord true st b).toNat = w) :
    decodeTableWord 16 w = some (decodeByteStep Config.preamble st b) := by
  rw [decodeTableWord_fields (by decide) hw, decode, decodeAt_byteStep]

/-- Settles O12: each word is written as its three fields, and decoded by them. -/
theorem writtenOutWordsDecode : Obligations.WrittenOutWordsDecode := by
  refine ⟨?e1, ?e2, ?e3, ?e4, ?e5, ?e6, ?e7, ?e8, ?e9, decodeTableWord_no_bits 0⟩
  case e1 => exact decodeTableWord_idle .await 0x00#8 rfl
  case e2 => exact decodeTableWord_idle .have3 0xA5#8 rfl
  case e3 => exact decodeTableWord_byteStep .await 0xA5#8 rfl
  case e4 => exact decodeTableWord_byteStep .await 0xA4#8 rfl
  case e5 => exact decodeTableWord_byteStep .await 0x00#8 rfl
  case e6 => exact decodeTableWord_byteStep .have1 0xA5#8 rfl
  case e7 => exact decodeTableWord_byteStep .have2 0xA5#8 rfl
  case e8 => exact decodeTableWord_byteStep .have3 0xA5#8 rfl
  case e9 => exact decodeTableWord_byteStep .have3 0x00#8 rfl

namespace Machine

/-- A row of no bits places an edge with `rst` 1 (log 7). -/
theorem nextInstr_withFetchWord_no_bits (s : State) (w : Nat) : nextInstr (s.withFetchWord 0 w) = .reset :=
  select_rst rfl

/-- The cursor and the pins that a word sets make up the word again (R62). -/
theorem nextInstr_withFetchWord (s : State) (w : Nat) (hn : nbits ≠ 0) :
    nextInstr (s.withFetchWord nbits w) = decode ⟨false, BitVec.ofNat 11 w⟩ := by
  simp only [nextInstr, nextEdge, select, eventWord, State.withFetchWord, cursorOfTableWord, sampleOfTableWord,
    if_neg hn, List.headD_cons, decodeWord_fields]

/-- What the decoder reads from a word of `W` is the operation of the next edge where the word is placed. -/
theorem decodeTableWord_eq_nextInstr (s : State) (nbits : Nat) (hw : w < 2048) :
    decodeTableWord nbits w = some (nextInstr (s.withFetchWord nbits w)) := by
  by_cases hn : nbits = 0
  · subst hn
    rw [decodeTableWord_no_bits, nextInstr_withFetchWord_no_bits]
  · rw [decodeTableWord_of_lt hn hw, nextInstr_withFetchWord s w hn]

/-- Settles O14: the word's operation is the one that the next step executes, and a wider word has none. -/
theorem placedTableWordRunsNext : Obligations.PlacedTableWordRunsNext :=
  ⟨fun s nbits _ hw => ⟨_, decodeTableWord_eq_nextInstr s nbits hw, rfl⟩, fun _ _ => decodeTableWord_of_ge⟩

end Machine

end Sys2Proof
end

section
/-! SUPPORT. The step as the decoder's operation (R64), RESET's free values (log 3), and the state after reset (R30,
R161). -/

namespace Sys2Proof.Machine

open Sys2Proof.Safety

/-- Settles O2: RESET's meaning, its two updates written as fields. -/
theorem resetDrawsFreePendingBytes : Obligations.ResetDrawsFreePendingBytes := exec_reset

/-- Settles O9: the step at a listed edge, and the step where the list gives none. -/
theorem stepRunsDecodedOperation : Obligations.StepRunsDecodedOperation :=
  ⟨fun _ _ _ hedges => step_at_edge hedges, fun _ hedges => step_quiet hedges⟩

theorem State.reset_st : State.reset.st = .await := rfl

/-- Settles O22: reset's fields, and no record in AWAIT. -/
theorem resetStateAwaitsWithEmptyStreams : Obligations.ResetStateAwaitsWithEmptyStreams :=
  ⟨State.reset_st, rfl, rfl, rfl, rfl, rfl, rfl, fun _ => outValid_of_ne_have3 (by simp [State.reset_st])⟩

/-- In AWAIT with both streams empty, the reading of no stretches is one. -/
theorem outMatchesIn_of_empty {s : State} (hst : s.st = .await) (htaken : s.taken = []) (hout : s.out = []) :
    OutMatchesIn s :=
  ⟨[], nofun, by rw [htaken, pending_await hst]; rfl, hout⟩

theorem bytesFramed_of_empty {s : State} (hst : s.st = .await) (hout : s.out = []) : s.bytesFramed = 0 := by
  simp [State.bytesFramed, hst, hout, cursorIndex]

/-- Settles O41: in AWAIT with both streams empty there is no frame in progress and no record to account for. -/
theorem resetMeetsTheInvariants : Obligations.ResetMeetsTheInvariants := by
  refine ⟨pendingValid_of_await State.reset_st, outMatchesIn_of_empty State.reset_st rfl rfl, ?rate⟩
  case rate =>
    rw [rateBounded_iff_bytesFramed_le, bytesFramed_of_empty State.reset_st rfl]
    exact Nat.zero_le _

end Sys2Proof.Machine
end
